-- ==== Sys2Proof/Word.lean ====
section
/-! DEFINITION. The widths of the ncomm link block (00_scope R8, R9): bytes, 16-bit halves, signed
16-bit samples and 32-bit words, each a bit vector. -/

namespace Sys2Proof

/-- `u8` (R9): a byte on the wire, a message type, a sequence number. -/
abbrev Byte := BitVec 8

/-- `u16` (R9): a CRC, a configuration register, a run counter, an immediate. -/
abbrev Half := BitVec 16

/-- `s16` (R9): an audio sample, a 16-bit pattern read as two's complement (log entry 10). -/
abbrev Sample := BitVec 16

/-- `u32` (R9): a command word, a response value, a Stats counter. -/
abbrev Word := BitVec 32

end Sys2Proof
end

