-- ==== Sys2Proof/Config.lean ====
section
/-! DEFINITION. The implementation parameters of 00_scope R7: what a build of the block fixes. -/

namespace Sys2Proof

/-- `MAX_PAYLOAD` (R7): "fixed", so it is no field of `Config`. -/
def maxPayload : Nat := 576

/-- The parameters of R7 that a build may choose. The fixed ones are MAX_PAYLOAD above, and STAT_W = 32 and
RUN_W = 16, which are the widths of the counters (`Word`) and of the runs (`Half`). They "are fixed when
the block is built and cannot be changed by any operation" (70_reset_and_hazards R283). -/
structure Config where
  /-- `SOF0`: any 8-bit value. -/
  sof0 : Byte
  /-- `SOF1`: any 8-bit value. -/
  sof1 : Byte
  /-- `RING_CAP`: a power of two, from 2 to 65536. -/
  ringCap : Nat
  /-- `OUT_BUF_SAMPLES`: from 1 to 65535. -/
  outBufSamples : Nat
  /-- `DEF_VAD_THRESHOLD`: any 16-bit value. -/
  defVadThreshold : Half
  /-- `DEF_VAD_POS_COUNT`: any 16-bit value. -/
  defVadPosCount : Half
  /-- `DEF_VAD_NEG_COUNT`: any 16-bit value. -/
  defVadNegCount : Half
  /-- `DEF_CHUNK_SAMPLES`: any 16-bit value. -/
  defChunkSamples : Half
  deriving DecidableEq, Repr

/-- The value column of R7 (decisions D6 to D9): the binding of a block as the spec ships it. -/
def Config.default : Config where
  sof0 := 0xAA
  sof1 := 0x55
  ringCap := 8192
  outBufSamples := 256
  defVadThreshold := 1000
  defVadPosCount := 3
  defVadNegCount := 3
  defChunkSamples := 256

/-- The constraint column of R7. -/
abbrev Config.Legal (c : Config) : Prop :=
  (2 ^ c.ringCap.log2 = c.ringCap ∧ 2 ≤ c.ringCap ∧ c.ringCap ≤ 65536) ∧
    (1 ≤ c.outBufSamples ∧ c.outBufSamples ≤ 65535)

end Sys2Proof
end

