-- ==== Sys2Proof/Syntax.lean ====
section
/-! DEFINITION. The operations of the block (30_encoding R86 to R91): what a caller hands to the
command port, and the one inductive `Instr` with a constructor for each row of the opcode table. -/

namespace Sys2Proof

/-- What the data channel beside a command word (or in a response) holds (R87, R88). -/
inductive Data where
  | none
  | bytes (bs : List Byte)
  | samples (xs : List Sample)
  deriving DecidableEq, Repr

/-- The kind of a data channel (R87), as the "data in" column of R90 names it. -/
inductive DataKind where
  | none
  | bytes
  | samples
  deriving DecidableEq, Repr

/-- The kind of what a data channel holds. -/
def Data.kind : Data → DataKind
  | .none => .none
  | .bytes _ => .bytes
  | .samples _ => .samples

/-- The data channel of a given kind that holds nothing. -/
def Data.empty : DataKind → Data
  | .none => .none
  | .bytes => .bytes []
  | .samples => .samples []

/-- One operation as the command port takes it: a 32-bit command word and its data channel (R6, R86,
R87). -/
structure Command where
  word : Word
  data : Data
  deriving DecidableEq, Repr

/-- The fifteen operations of R90, with the operands R91 assembles from the command word and, as the
last argument of each, what the data channel holds. A data channel of a kind that R90 does not give
the operation is a form of the operation too: it fails ILLEGAL_CMD (R92 c). -/
inductive Instr where
  /-- CRC_INIT (R111). -/
  | crcInit (d : Data)
  /-- CRC_BYTE (R112): `byte = imm16[7:0]`. -/
  | crcByte (b : Byte) (d : Data)
  /-- CRC_READ (R113). -/
  | crcRead (d : Data)
  /-- ENCODE (R131): `type = b8`, `seq = imm16[7:0]`; the payload is the data channel. -/
  | encodeFrame (ty sq : Byte) (d : Data)
  /-- DECODE (R134): the frame is the data channel. -/
  | decodeFrame (d : Data)
  /-- RX_BYTE (R150): `byte = imm16[7:0]`. -/
  | rxByte (b : Byte) (d : Data)
  /-- VAD_CHUNK (R181): the chunk is the data channel. -/
  | vadChunk (d : Data)
  /-- RING_PUSH (R202): the samples are the data channel. -/
  | ringPush (d : Data)
  /-- RING_PULL (R204): `count = imm16`. -/
  | ringPull (count : Half) (d : Data)
  /-- BUF_COMPLETE (R205). -/
  | bufComplete (d : Data)
  /-- CFG_READ (R230): `index = idx`. -/
  | cfgRead (idx : BitVec 4) (d : Data)
  /-- CFG_WRITE (R231): `index = idx`, `v = imm16`. -/
  | cfgWrite (idx : BitVec 4) (v : Half) (d : Data)
  /-- STAT_READ (R233): `index = idx`. -/
  | statRead (idx : BitVec 4) (d : Data)
  /-- STAT_CLEAR (R234). -/
  | statClear (d : Data)
  /-- SOFT_RESET (R235). -/
  | softReset (d : Data)
  deriving DecidableEq, Repr

/-- What the operation's data channel holds. -/
def Instr.data : Instr → Data
  | .crcInit d => d
  | .crcByte _ d => d
  | .crcRead d => d
  | .encodeFrame _ _ d => d
  | .decodeFrame d => d
  | .rxByte _ d => d
  | .vadChunk d => d
  | .ringPush d => d
  | .ringPull _ d => d
  | .bufComplete d => d
  | .cfgRead _ d => d
  | .cfgWrite _ _ d => d
  | .statRead _ d => d
  | .statClear d => d
  | .softReset d => d

end Sys2Proof
end

