-- ==== Sys2Proof/WellFormed.lean ====
section
/-! DEFINITION. Well-formed operations: the data channel holds the kind that R90 gives the operation.
Every other constraint on an operand is its type: a byte, a 16-bit immediate, a 4-bit index. -/

namespace Sys2Proof

/-- The "data in" column of R90. -/
def Instr.dataKind : Instr → DataKind
  | .crcInit _ => .none
  | .crcByte _ _ => .none
  | .crcRead _ => .none
  | .encodeFrame _ _ _ => .bytes
  | .decodeFrame _ => .bytes
  | .rxByte _ _ => .none
  | .vadChunk _ => .samples
  | .ringPush _ => .samples
  | .ringPull _ _ => .none
  | .bufComplete _ => .none
  | .cfgRead _ _ => .none
  | .cfgWrite _ _ _ => .none
  | .statRead _ _ => .none
  | .statClear _ => .none
  | .softReset _ => .none

/-- The operation's data channel is of the kind it takes: clause (c) of R92 does not make it illegal. -/
abbrev Instr.WellFormed (i : Instr) : Prop := i.data.kind = i.dataKind

end Sys2Proof
end

