-- ==== Sys2Proof/Decode.lean ====
section
/-! DEFINITION. The command word (30_encoding R86, R90 to R92): its four fields, the decoder, total on
every command and rejecting by name, and the encoder. -/

namespace Sys2Proof

/-- The four fields of a command word (R86). -/
structure Fields where
  /-- `op = word[31:28]` -/
  op : BitVec 4
  /-- `idx = word[27:24]` -/
  idx : BitVec 4
  /-- `b8 = word[23:16]` -/
  b8 : Byte
  /-- `imm16[15:8] = word[15:8]` -/
  immHi : Byte
  /-- `imm16[7:0] = word[7:0]` -/
  immLo : Byte
  deriving DecidableEq, Repr

/-- The fields of a word (R86). `imm16` is held as its two bytes, since R90 constrains them apart. -/
def Fields.ofWord (w : Word) : Fields where
  op := w.extractLsb' 28 4
  idx := w.extractLsb' 24 4
  b8 := w.extractLsb' 16 8
  immHi := w.extractLsb' 8 8
  immLo := w.extractLsb' 0 8

/-- The word with the given fields (R86). -/
def Fields.toWord (f : Fields) : Word :=
  f.op ++ (f.idx ++ (f.b8 ++ (f.immHi ++ f.immLo)))

/-- `imm16` (R86). -/
def Fields.imm16 (f : Fields) : Half := f.immHi ++ f.immLo

/-- Why a command word is illegal: the clauses of R92 that concern the word. Clause (c), the wrong data
kind, is checked by each operation's meaning. -/
inductive DecodeError where
  /-- R92 (a): `op = 0x0`. -/
  | illegalOp
  /-- R92 (b): a field that R90 marks 0 for this `op` is not zero. -/
  | reservedField
  deriving DecidableEq, Repr

/-- The operation if the fields R90 marks 0 are zero, else R92 (b). -/
def requireZero (zero : Bool) (i : Instr) : Except DecodeError Instr :=
  if zero then .ok i else .error .reservedField

/-- The opcode map of R90: `op` alone selects the operation, then the reserved fields decide whether the
word is legal. -/
def decodeFields (f : Fields) (d : Data) : Except DecodeError Instr :=
  match f.op.toNat with
  | 0x1 => requireZero (f.idx == 0 && f.b8 == 0 && f.immHi == 0 && f.immLo == 0) (.crcInit d)
  | 0x2 => requireZero (f.idx == 0 && f.b8 == 0 && f.immHi == 0) (.crcByte f.immLo d)
  | 0x3 => requireZero (f.idx == 0 && f.b8 == 0 && f.immHi == 0 && f.immLo == 0) (.crcRead d)
  | 0x4 => requireZero (f.idx == 0 && f.immHi == 0) (.encodeFrame f.b8 f.immLo d)
  | 0x5 => requireZero (f.idx == 0 && f.b8 == 0 && f.immHi == 0 && f.immLo == 0) (.decodeFrame d)
  | 0x6 => requireZero (f.idx == 0 && f.b8 == 0 && f.immHi == 0) (.rxByte f.immLo d)
  | 0x7 => requireZero (f.idx == 0 && f.b8 == 0 && f.immHi == 0 && f.immLo == 0) (.vadChunk d)
  | 0x8 => requireZero (f.idx == 0 && f.b8 == 0 && f.immHi == 0 && f.immLo == 0) (.ringPush d)
  | 0x9 => requireZero (f.idx == 0 && f.b8 == 0) (.ringPull f.imm16 d)
  | 0xA => requireZero (f.idx == 0 && f.b8 == 0 && f.immHi == 0 && f.immLo == 0) (.bufComplete d)
  | 0xB => requireZero (f.b8 == 0 && f.immHi == 0 && f.immLo == 0) (.cfgRead f.idx d)
  | 0xC => requireZero (f.b8 == 0) (.cfgWrite f.idx f.imm16 d)
  | 0xD => requireZero (f.b8 == 0 && f.immHi == 0 && f.immLo == 0) (.statRead f.idx d)
  | 0xE => requireZero (f.idx == 0 && f.b8 == 0 && f.immHi == 0 && f.immLo == 0) (.statClear d)
  | 0xF => requireZero (f.idx == 0 && f.b8 == 0 && f.immHi == 0 && f.immLo == 0) (.softReset d)
  | _ => .error .illegalOp

/-- The decoder: the operation a command is, or the clause of R92 that makes its word illegal. -/
def decode (c : Command) : Except DecodeError Instr := decodeFields (.ofWord c.word) c.data

/-- The fields of an operation's command word (R90, R91). -/
def Instr.fields : Instr → Fields
  | .crcInit _ => ⟨0x1, 0, 0, 0, 0⟩
  | .crcByte b _ => ⟨0x2, 0, 0, 0, b⟩
  | .crcRead _ => ⟨0x3, 0, 0, 0, 0⟩
  | .encodeFrame ty sq _ => ⟨0x4, 0, ty, 0, sq⟩
  | .decodeFrame _ => ⟨0x5, 0, 0, 0, 0⟩
  | .rxByte b _ => ⟨0x6, 0, 0, 0, b⟩
  | .vadChunk _ => ⟨0x7, 0, 0, 0, 0⟩
  | .ringPush _ => ⟨0x8, 0, 0, 0, 0⟩
  | .ringPull n _ => ⟨0x9, 0, 0, n.extractLsb' 8 8, n.extractLsb' 0 8⟩
  | .bufComplete _ => ⟨0xA, 0, 0, 0, 0⟩
  | .cfgRead x _ => ⟨0xB, x, 0, 0, 0⟩
  | .cfgWrite x v _ => ⟨0xC, x, 0, v.extractLsb' 8 8, v.extractLsb' 0 8⟩
  | .statRead x _ => ⟨0xD, x, 0, 0, 0⟩
  | .statClear _ => ⟨0xE, 0, 0, 0, 0⟩
  | .softReset _ => ⟨0xF, 0, 0, 0, 0⟩

/-- The encoder: the command word and the data channel of an operation (R86, R90). -/
def encode (i : Instr) : Command := ⟨i.fields.toWord, i.data⟩

/-- The command of the opcode table's word `w` of `nbits` bits: the word, its bits above `nbits` zero,
with a data channel of the kind R90 gives its operation and nothing in it (log entry 8). -/
def Command.ofTableWord (nbits w : Nat) : Command :=
  let word := BitVec.ofNat 32 (w % 2 ^ nbits)
  match decode ⟨word, .none⟩ with
  | .ok i => ⟨word, .empty i.dataKind⟩
  | .error _ => ⟨word, .none⟩

/-- What the decoder reads from the opcode table's word `w` of `nbits` bits. -/
def decodeTableWord (nbits w : Nat) : Option Instr := (decode (.ofTableWord nbits w)).toOption

end Sys2Proof
end

