-- ==== Sys2Proof/Machine/State.lean ====
section
/-! DEFINITION. The architectural state of one block (10_state R20 to R38), the responses it returns
(30_encoding R88), its fault and refusal reasons, and the state after power-on reset
(70_reset_and_hazards R280). -/

namespace Sys2Proof.Machine

/-- An internal array (20_memory R60) as a list of (index, element) pairs in one canonical form: indices
strictly rising, and no entry equal to 0, which is what an unlisted element reads as (log entry 5). -/
abbrev Memory (w : Nat) := List (Nat × BitVec w)

/-- The four internal arrays of R60; the two output buffers are named apart. -/
inductive ArrayName where
  | hdr
  | pay
  | ring
  | obuf0
  | obuf1
  deriving DecidableEq, Repr

/-- The parser's states (R21). Codes 6 and 7 "are never held". -/
inductive ParserState where
  /-- hunting for SOF byte 0 -/
  | waitSof0
  /-- SOF0 seen; expecting SOF byte 1 -/
  | waitSof1
  /-- collecting the 4 header bytes -/
  | header
  /-- collecting `p_len` payload bytes -/
  | payload
  /-- expecting the CRC low byte -/
  | crcLo
  /-- expecting the CRC high byte -/
  | crcHi
  deriving DecidableEq, Repr

/-- The seven Stats counters (R37), in the order of their indices. -/
inductive Counter where
  | bytesRx
  | framesOk
  | framesBadCrc
  | framingErr
  | framesSent
  | overflow
  | underrun
  deriving DecidableEq, Repr

/-- `stat` (R37): seven 32-bit counters. -/
structure Stats where
  bytesRx : Word
  framesOk : Word
  framesBadCrc : Word
  framingErr : Word
  framesSent : Word
  overflow : Word
  underrun : Word
  deriving DecidableEq, Repr

/-- The status codes of 60_exceptions R260 that the block returns. -/
inductive Status where
  | ok
  | illegalCmd
  | badReg
  | payloadTooLarge
  | crcMismatch
  | truncated
  | badSof
  | lengthMismatch
  | badChunk
  deriving DecidableEq, Repr

/-- The event of a response (R88, R89). -/
inductive Event where
  | none
  | frame
  | vadStatus
  deriving DecidableEq, Repr

/-- What an operation returns (R88). -/
structure Response where
  status : Status
  value : Word
  data : Data
  event : Event
  deriving DecidableEq, Repr

/-- One block. The fields down to `stats` are the state elements of R20 to R38; the last three are the
model's own (log entries 1, 2 and 3). -/
structure State where
  /-- `crc_acc` (R20) -/
  crcAcc : Half
  /-- `p_state` (R21) -/
  pState : ParserState
  /-- `hdr` (R22): 4 bytes -/
  hdr : Memory 8
  /-- `hdr_cnt` (R22): 0..4 -/
  hdrCnt : Nat
  /-- `pay` (R23): MAX_PAYLOAD bytes -/
  pay : Memory 8
  /-- `pay_cnt` (R23): 0..576 -/
  payCnt : Nat
  /-- `p_len` (R24): 0..576 -/
  pLen : Nat
  /-- `crc_lo` (R25) -/
  crcLo : Byte
  /-- `p_crc` (R26) -/
  pCrc : Half
  /-- `pos_run` (R27) -/
  posRun : Half
  /-- `neg_run` (R27) -/
  negRun : Half
  /-- `latched` (R28) -/
  latched : Bool
  /-- `vad_threshold` (R29) -/
  vadThreshold : Half
  /-- `vad_pos_count` (R30) -/
  vadPosCount : Half
  /-- `vad_neg_count` (R31) -/
  vadNegCount : Half
  /-- `chunk_samples` (R32) -/
  chunkSamples : Half
  /-- `ring` (R34): RING_CAP samples -/
  ring : Memory 16
  /-- `wr` (R35): 0..RING_CAP-1 -/
  wr : Nat
  /-- `rd` (R35): 0..RING_CAP-1 -/
  rd : Nat
  /-- `obuf[0]` (R36): OUT_BUF_SAMPLES samples -/
  obuf0 : Memory 16
  /-- `obuf[1]` (R36): OUT_BUF_SAMPLES samples -/
  obuf1 : Memory 16
  /-- `active` (R36): the buffer the sink is draining -/
  active : Fin 2
  /-- `stat` (R37) -/
  stats : Stats
  /-- The model's own: the parameters the block is built with (R7). No operation changes it. -/
  cfg : Config
  /-- The model's own: the commands the port has accepted and not yet executed, oldest first (R70). -/
  pending : List Command
  /-- The model's own: the response of the last operation (R88), none before the first. -/
  resp : Option Response
  deriving DecidableEq, Repr

/-- Why a step stops. The block has no fault of its own (60_exceptions R262, R268). -/
inductive Fault where
  /-- An operation would use an array at an index outside its bounds (20_memory R60). Raised by RX_BYTE,
  RING_PUSH, RING_PULL and BUF_COMPLETE, in states that hold a cursor out of its range only, so in no
  reachable state (42_rx_parser R159). Safe: the model stops where the spec says there is nothing. -/
  | indexOutOfBounds (a : ArrayName) (i : Nat)
  deriving DecidableEq, Repr

/-- Why a step refuses. -/
inductive Refusal where
  /-- An operation of the opcode table that has no meaning in the model yet. Raised by no arm of `exec`:
  every operation has its meaning. Safe. -/
  | notModelled (mnemonic : String)
  deriving DecidableEq, Repr

/-- A block with the given parameters right after power-on reset (R280: each element's own rule states
its value; log entry 4 for `hdr`, `pay` and `ring`). -/
def State.powerOn (cfg : Config) : State where
  crcAcc := 0xFFFF
  pState := .waitSof0
  hdr := []
  hdrCnt := 0
  pay := []
  payCnt := 0
  pLen := 0
  crcLo := 0
  pCrc := 0xFFFF
  posRun := 0
  negRun := 0
  latched := false
  vadThreshold := cfg.defVadThreshold
  vadPosCount := cfg.defVadPosCount
  vadNegCount := cfg.defVadNegCount
  chunkSamples := cfg.defChunkSamples
  ring := []
  wr := 0
  rd := 0
  obuf0 := []
  obuf1 := []
  active := 0
  stats := ⟨0, 0, 0, 0, 0, 0, 0⟩
  cfg := cfg
  pending := []
  resp := none

/-- The machine right after power-on reset, with the parameters of R7's value column. -/
def State.reset : State := .powerOn .default

end Sys2Proof.Machine
end

