-- ==== Sys2Proof/Machine/Ops.lean ====
section
/-! DEFINITION. The operations every meaning is written over: the internal arrays (20_memory R60), the
primitives `count`, `respond`, `emit` and `fail` (00_scope R11), byte order (00_scope R10, 20_memory
R62, R64), and the predicates of the audio ring (44_audio_ring R201). -/

namespace Sys2Proof.Machine

/-! ## Internal arrays -/

/-- Element `i` of an array: 0 where the list names none. -/
def Memory.read {w : Nat} : Memory w → Nat → BitVec w
  | [], _ => 0#w
  | (j, v) :: m, i => if i = j then v else Memory.read m i

/-- The array with element `i` set to `v`, in canonical form: setting 0 removes the entry. -/
def Memory.write {w : Nat} : Memory w → Nat → BitVec w → Memory w
  | [], i, v => if v = 0#w then [] else [(i, v)]
  | (j, u) :: m, i, v =>
    if i < j then (if v = 0#w then (j, u) :: m else (i, v) :: (j, u) :: m)
    else if i = j then (if v = 0#w then m else (i, v) :: m)
    else (j, u) :: Memory.write m i v

/-- The array that holds `xs` from index `i` on and 0 elsewhere. -/
def Memory.ofListFrom {w : Nat} : Nat → List (BitVec w) → Memory w
  | _, [] => []
  | i, v :: xs => if v = 0#w then Memory.ofListFrom (i + 1) xs else (i, v) :: Memory.ofListFrom (i + 1) xs

/-- Elements 0 to `n - 1` of an array, in order. -/
def Memory.take {w : Nat} (m : Memory w) (n : Nat) : List (BitVec w) :=
  (List.range n).map m.read

/-- Every index is at least `lo`, they rise strictly, and no listed element is 0. -/
def Memory.wfFrom {w : Nat} : Nat → Memory w → Bool
  | _, [] => true
  | lo, (i, v) :: m => decide (lo ≤ i) && decide (v ≠ 0#w) && Memory.wfFrom (i + 1) m

/-- The canonical form of an array: equal arrays are equal lists. -/
def Memory.wf {w : Nat} (m : Memory w) : Bool := Memory.wfFrom 0 m

/-- Every listed index is below `n`, the array's length. -/
def Memory.within {w : Nat} (n : Nat) (m : Memory w) : Bool := m.all fun c => decide (c.1 < n)

/-! ## Byte order -/

/-- `le16` (R10): low byte first. -/
def le16 (v : Half) : List Byte := [v.extractLsb' 0 8, v.extractLsb' 8 8]

/-- `zext_16(lo) | (zext_16(hi) << 8)` (30_encoding R84, R85). -/
def joinLe16 (lo hi : Byte) : Half := hi ++ lo

/-- `pcm16le(lo, hi)` (20_memory R64). The block does not apply it itself: whoever feeds RING_PUSH from a
frame payload does. -/
def pcm16le (lo hi : Byte) : Sample := hi ++ lo

/-! ## Saturation and counters -/

/-- `sat_W(n)` (R9): `min(n, 2^W - 1)` as a `W`-bit value. -/
def sat (w n : Nat) : BitVec w := BitVec.ofNat w (min n (2 ^ w - 1))

/-- A counter's value (R37). -/
def Stats.get (s : Stats) : Counter → Word
  | .bytesRx => s.bytesRx
  | .framesOk => s.framesOk
  | .framesBadCrc => s.framesBadCrc
  | .framingErr => s.framingErr
  | .framesSent => s.framesSent
  | .overflow => s.overflow
  | .underrun => s.underrun

/-- The counters with one of them set. -/
def Stats.set (s : Stats) (c : Counter) (v : Word) : Stats :=
  match c with
  | .bytesRx => { s with bytesRx := v }
  | .framesOk => { s with framesOk := v }
  | .framesBadCrc => { s with framesBadCrc := v }
  | .framingErr => { s with framingErr := v }
  | .framesSent => { s with framesSent := v }
  | .overflow => { s with overflow := v }
  | .underrun => { s with underrun := v }

/-- `count(C)` (R11): `s.stat[C] <- sat_32(s.stat[C] + 1)`. -/
def State.count (s : State) (c : Counter) : State :=
  { s with stats := s.stats.set c (sat 32 ((s.stats.get c).toNat + 1)) }

/-! ## Responses -/

/-- The outcome of an operation. -/
abbrev Result := Host.Outcome State Fault Refusal

/-- `respond(value, data)` (R11): status OK and no event. -/
def State.respond (s : State) (value : Word) (data : Data) : Result :=
  .next { s with resp := some ⟨.ok, value, data, .none⟩ }

/-- `respond(value, data)` with an event emitted (R11, R89). -/
def State.respondEvent (s : State) (event : Event) (value : Word) (data : Data) : Result :=
  .next { s with resp := some ⟨.ok, value, data, event⟩ }

/-- `fail <STATUS>` (R11, 60_exceptions R262): the one way an operation goes wrong. Applied to the state
the operation started from, it undoes every write; value 0, no data, no event (R88). -/
def State.fail (s : State) (status : Status) : Result :=
  .next { s with resp := some ⟨status, 0, .none, .none⟩ }

/-! ## Parser buffers -/

/-- `s.hdr[s.hdr_cnt] <- b; s.hdr_cnt <- s.hdr_cnt + 1` (42_rx_parser R154). -/
def State.storeHdr (s : State) (b : Byte) : State :=
  { s with hdr := s.hdr.write s.hdrCnt b, hdrCnt := s.hdrCnt + 1 }

/-- `s.pay[s.pay_cnt] <- b; s.pay_cnt <- s.pay_cnt + 1` (42_rx_parser R155). -/
def State.storePay (s : State) (b : Byte) : State :=
  { s with pay := s.pay.write s.payCnt b, payCnt := s.payCnt + 1 }

/-! ## Ring and output buffers -/

/-- `next(i)` (R201). -/
def ringNext (c : Config) (i : Nat) : Nat := (i + 1) % c.ringCap

/-- `full` (R201). -/
def State.ringFull (s : State) : Bool := ringNext s.cfg s.wr == s.rd

/-- `empty` (R201). -/
def State.ringEmpty (s : State) : Bool := s.rd == s.wr

/-- `occ` (R201): `(wr - rd) mod RING_CAP`, the non-negative remainder (R9). -/
def State.occ (s : State) : Nat := (((s.wr : Int) - (s.rd : Int)) % (s.cfg.ringCap : Int)).toNat

/-- `s.ring[s.wr] <- v; s.wr <- next(s.wr)` (R202). -/
def State.storeRing (s : State) (v : Sample) : State :=
  { s with ring := s.ring.write s.wr v, wr := ringNext s.cfg s.wr }

/-- One round of RING_PUSH's loop (R202): drop and count when full, else store. -/
def State.pushOne (s : State) (v : Sample) : State :=
  if s.ringFull then s.count .overflow else s.storeRing v

/-- RING_PUSH's loop (R202): "for each sample v of x, in order". -/
def State.push : State → List Sample → State
  | s, [] => s
  | s, v :: vs => (s.pushOne v).push vs

/-- One round of `pull` (R203): silence, counted, when empty, else the sample at the read cursor. -/
def State.pullOne (s : State) : Sample × State :=
  if s.ringEmpty then (0, s.count .underrun)
  else (s.ring.read s.rd, { s with rd := ringNext s.cfg s.rd })

/-- `pull(count)` (R203): exactly `count` samples, in FIFO order. -/
def State.pull : State → Nat → List Sample × State
  | s, 0 => ([], s)
  | s, n + 1 =>
    let one := s.pullOne
    let rest := one.2.pull n
    (one.1 :: rest.1, rest.2)

/-- `obuf[b]` (R36), as a sequence of OUT_BUF_SAMPLES samples. -/
def State.obuf (s : State) (b : Fin 2) : List Sample :=
  (if b = 0 then s.obuf0 else s.obuf1).take s.cfg.outBufSamples

/-- `s.obuf[b] <- xs` (R205). -/
def State.setObuf (s : State) (b : Fin 2) (xs : List Sample) : State :=
  if b = 0 then { s with obuf0 := .ofListFrom 0 xs } else { s with obuf1 := .ofListFrom 0 xs }

end Sys2Proof.Machine
end

