-- ==== Sys2Proof/Machine/Operands.lean ====
section
/-! DEFINITION. The operand forms: what the data channel must hold (30_encoding R87, R90, R92 c), the
configuration and status registers (10_state R39), the Stats indices (10_state R40) and the packings of
the response value (30_encoding R89). -/

namespace Sys2Proof.Machine

/-! ## The data channel -/

/-- An operation that takes no data: ILLEGAL_CMD for data of any kind (R92 c). -/
def withNone (d : Data) (s : State) (k : Result) : Result :=
  match d with
  | .none => k
  | .bytes _ => s.fail .illegalCmd
  | .samples _ => s.fail .illegalCmd

/-- An operation that takes a byte sequence: ILLEGAL_CMD for any other kind (R92 c). -/
def withBytes (d : Data) (s : State) (k : List Byte → Result) : Result :=
  match d with
  | .none => s.fail .illegalCmd
  | .bytes bs => k bs
  | .samples _ => s.fail .illegalCmd

/-- An operation that takes a sample sequence: ILLEGAL_CMD for any other kind (R92 c). -/
def withSamples (d : Data) (s : State) (k : List Sample → Result) : Result :=
  match d with
  | .none => s.fail .illegalCmd
  | .bytes _ => s.fail .illegalCmd
  | .samples xs => k xs

/-! ## Register indices -/

/-- The 3-bit code of a parser state (R21). -/
def ParserState.code : ParserState → Word
  | .waitSof0 => 0
  | .waitSof1 => 1
  | .header => 2
  | .payload => 3
  | .crcLo => 4
  | .crcHi => 5

/-- A flag in bit 0 (R39, R89). -/
def flagWord (b : Bool) : Word := if b then 1 else 0

/-- `reg(index)` of R39, zero-extended to 32 bits; none at a reserved index. -/
def State.cfgReg (s : State) (idx : BitVec 4) : Option Word :=
  match idx.toNat with
  | 0 => some (s.vadThreshold.zeroExtend 32)
  | 1 => some (s.vadPosCount.zeroExtend 32)
  | 2 => some (s.vadNegCount.zeroExtend 32)
  | 3 => some (s.chunkSamples.zeroExtend 32)
  | 8 => some s.pState.code
  | 9 => some (flagWord s.latched)
  | 10 => some (s.posRun.zeroExtend 32)
  | 11 => some (s.negRun.zeroExtend 32)
  | 12 => some (BitVec.ofNat 32 s.occ)
  | 13 => some (BitVec.ofNat 32 s.active.val)
  | 14 => some (BitVec.ofNat 32 s.wr)
  | 15 => some (BitVec.ofNat 32 s.rd)
  | _ => none

/-- A write to a configuration register (R39, 45_control R231); none at a reserved or read-only index
(45_control R232). -/
def State.setCfgReg (s : State) (idx : BitVec 4) (v : Half) : Option State :=
  match idx.toNat with
  | 0 => some { s with vadThreshold := v }
  | 1 => some { s with vadPosCount := v }
  | 2 => some { s with vadNegCount := v }
  | 3 => some { s with chunkSamples := v }
  | _ => none

/-- The counter at a Stats index (R37, R40); none at a reserved index. -/
def statAt (idx : BitVec 4) : Option Counter :=
  match idx.toNat with
  | 0 => some .bytesRx
  | 1 => some .framesOk
  | 2 => some .framesBadCrc
  | 3 => some .framingErr
  | 4 => some .framesSent
  | 5 => some .overflow
  | 6 => some .underrun
  | _ => none

/-! ## Response values -/

/-- The packing of FRAME and of DECODE's result (R89): `len << 16 | type << 8 | seq`. -/
def packFrame (len : Nat) (ty sq : Byte) : Word :=
  (BitVec.ofNat 32 len <<< 16) ||| (ty.zeroExtend 32 <<< 8) ||| sq.zeroExtend 32

/-- The packing of VAD_STATUS (R89): `latched << 16 | run`. -/
def packVad (latched : Bool) (run : Half) : Word :=
  (flagWord latched <<< 16) ||| run.zeroExtend 32

/-- A status code (60_exceptions R260). -/
def Status.code : Status → BitVec 4
  | .ok => 0
  | .illegalCmd => 1
  | .badReg => 2
  | .payloadTooLarge => 3
  | .crcMismatch => 4
  | .truncated => 5
  | .badSof => 6
  | .lengthMismatch => 7
  | .badChunk => 8

end Sys2Proof.Machine
end

