-- ==== Sys2Proof/Machine/AudioRing.lean ====
section
/-! DEFINITION. The audio ring and the double-buffer output (44_audio_ring): RING_PUSH, RING_PULL and
BUF_COMPLETE. A cursor outside the ring is in no reachable state (10_state R35, log entry 6). -/

namespace Sys2Proof.Machine

/-- RING_PUSH (R202). -/
def execRingPush (d : Data) (s : State) : Result :=
  withSamples d s fun xs =>
    if s.cfg.ringCap ≤ s.wr then .fault (.indexOutOfBounds .ring s.wr)
    else (s.push xs).respond 0 .none

/-- RING_PULL (R204). -/
def execRingPull (count : Half) (d : Data) (s : State) : Result :=
  withNone d s <|
    if s.cfg.ringCap ≤ s.rd then .fault (.indexOutOfBounds .ring s.rd)
    else
      let p := s.pull count.toNat
      p.2.respond 0 (.samples p.1)

/-- The state after BUF_COMPLETE's swap and refill (R205): the buffer that was active becomes idle and is
refilled. -/
def State.swapRefill (s : State) : State :=
  let t := { s with active := 1 - s.active }
  let p := t.pull t.cfg.outBufSamples
  p.2.setObuf (1 - t.active) p.1

/-- BUF_COMPLETE (R205): the response carries the new active buffer. -/
def execBufComplete (d : Data) (s : State) : Result :=
  withNone d s <|
    if s.cfg.ringCap ≤ s.rd then .fault (.indexOutOfBounds .ring s.rd)
    else s.swapRefill.respond 0 (.samples (s.swapRefill.obuf s.swapRefill.active))

end Sys2Proof.Machine
end

