-- ==== Sys2Proof/Machine/Control.lean ====
section
/-! DEFINITION. The control operations (45_control): CFG_READ, CFG_WRITE, STAT_READ, STAT_CLEAR and
SOFT_RESET. -/

namespace Sys2Proof.Machine

/-- CFG_READ (R230). -/
def execCfgRead (idx : BitVec 4) (d : Data) (s : State) : Result :=
  withNone d s <|
    match s.cfgReg idx with
    | none => s.fail .badReg
    | some v => s.respond v .none

/-- CFG_WRITE (R231, R232). -/
def execCfgWrite (idx : BitVec 4) (v : Half) (d : Data) (s : State) : Result :=
  withNone d s <|
    match s.setCfgReg idx v with
    | none => s.fail .badReg
    | some t => t.respond 0 .none

/-- STAT_READ (R233). -/
def execStatRead (idx : BitVec 4) (d : Data) (s : State) : Result :=
  withNone d s <|
    match statAt idx with
    | none => s.fail .badReg
    | some c => s.respond (s.stats.get c) .none

/-- STAT_CLEAR (R234). -/
def execStatClear (d : Data) (s : State) : Result :=
  withNone d s <| { s with stats := ⟨0, 0, 0, 0, 0, 0, 0⟩ }.respond 0 .none

/-- What SOFT_RESET resets (R235): the configuration, the VAD and the parser, and nothing else. -/
def State.softReset (s : State) : State :=
  { s with
    vadThreshold := s.cfg.defVadThreshold
    vadPosCount := s.cfg.defVadPosCount
    vadNegCount := s.cfg.defVadNegCount
    chunkSamples := s.cfg.defChunkSamples
    posRun := 0
    negRun := 0
    latched := false
    pState := .waitSof0
    hdrCnt := 0
    payCnt := 0
    pLen := 0
    crcLo := 0
    pCrc := 0xFFFF }

/-- SOFT_RESET (R235). -/
def execSoftReset (d : Data) (s : State) : Result :=
  withNone d s <| s.softReset.respond 0 .none

end Sys2Proof.Machine
end

