-- ==== Sys2Proof/Machine/Crc.lean ====
section
/-! DEFINITION. The CRC unit (40_crc): the step and the function every CRC of the block is computed
with, and CRC_INIT, CRC_BYTE and CRC_READ. -/

namespace Sys2Proof.Machine

/-- One of the 8 shifts of `crc_step` (R110): the top bit is tested before the shift. -/
def crcShift (acc : Half) : Half :=
  if acc.msb then (acc <<< 1) ^^^ 0x1021 else acc <<< 1

/-- `crc_step(acc, b)` (R110). -/
def crcStep (acc : Half) (b : Byte) : Half := crcShift^[8] (acc ^^^ (b.zeroExtend 16 <<< 8))

/-- `crc16(data)` (R114). -/
def crc16 (data : List Byte) : Half := data.foldl crcStep 0xFFFF

/-- CRC_INIT (R111). -/
def execCrcInit (d : Data) (s : State) : Result :=
  withNone d s <| { s with crcAcc := 0xFFFF }.respond 0 .none

/-- CRC_BYTE (R112). -/
def execCrcByte (b : Byte) (d : Data) (s : State) : Result :=
  withNone d s <| { s with crcAcc := crcStep s.crcAcc b }.respond 0 .none

/-- CRC_READ (R113). -/
def execCrcRead (d : Data) (s : State) : Result :=
  withNone d s <| s.respond (s.crcAcc.zeroExtend 32) .none

end Sys2Proof.Machine
end

