-- ==== Sys2Proof/Machine/FrameCodec.lean ====
section
/-! DEFINITION. The frame codec (41_frame_codec): the serialized frame, the check of a whole frame, and
ENCODE and DECODE. Neither touches the parser or `crc_acc` (40_crc R115). -/

namespace Sys2Proof.Machine

/-- A frame's fields (00_scope R13, 30_encoding R83: `type` and `seq` are opaque). -/
structure Frame where
  ty : Byte
  sq : Byte
  payload : List Byte
  deriving DecidableEq, Repr

/-- The CRC domain of a frame (30_encoding R82): the four header bytes, then the payload. -/
def crcDomain (f : Frame) : List Byte :=
  [f.ty, f.sq] ++ le16 (BitVec.ofNat 16 f.payload.length) ++ f.payload

/-- `frame_bytes(t, q, p)` (R130, 30_encoding R80), defined for `len(p) ≤ MAX_PAYLOAD`. -/
def frameBytes (c : Config) (f : Frame) : List Byte :=
  [c.sof0, c.sof1] ++ crcDomain f ++ le16 (crc16 (crcDomain f))

/-- `L` of R133: the declared length of a frame. -/
def declaredLen (F : List Byte) : Nat := (joinLe16 (F.getD 4 0) (F.getD 5 0)).toNat

/-- `decode_frame(F)` (R133): the checks in their order, the first failure's status. -/
def decodeFrameBytes (c : Config) (F : List Byte) : Except Status Frame :=
  let L := declaredLen F
  if F.length < 8 then .error .truncated
  else if F.getD 0 0 ≠ c.sof0 ∨ F.getD 1 0 ≠ c.sof1 then .error .badSof
  else if maxPayload < L then .error .payloadTooLarge
  else if F.length ≠ 8 + L then .error .lengthMismatch
  else if joinLe16 (F.getD (6 + L) 0) (F.getD (7 + L) 0) ≠ crc16 ((F.drop 2).take (4 + L)) then
    .error .crcMismatch
  else .ok ⟨F.getD 2 0, F.getD 3 0, (F.drop 6).take L⟩

/-- ENCODE (R131). -/
def execEncodeFrame (ty sq : Byte) (d : Data) (s : State) : Result :=
  withBytes d s fun payload =>
    if maxPayload < payload.length then s.fail .payloadTooLarge
    else (s.count .framesSent).respond 0 (.bytes (frameBytes s.cfg ⟨ty, sq, payload⟩))

/-- DECODE (R134). -/
def execDecodeFrame (d : Data) (s : State) : Result :=
  withBytes d s fun F =>
    match decodeFrameBytes s.cfg F with
    | .error e => s.fail e
    | .ok f => s.respond (packFrame f.payload.length f.ty f.sq) (.bytes f.payload)

end Sys2Proof.Machine
end

