-- ==== Sys2Proof/Machine/RxParser.lean ====
section
/-! DEFINITION. The RX parser (42_rx_parser): one definition for each of its six states, the step that
selects among them, and RX_BYTE. -/

namespace Sys2Proof.Machine

/-- What one byte does to the parser: the state after it and the frame it completes, or an array index
out of bounds (in no reachable state: R159). -/
abbrev RxOutcome := Except Fault (State × Option Frame)

/-- WAIT_SOF0 (R152). -/
def rxWaitSof0 (b : Byte) (s : State) : RxOutcome :=
  if b = s.cfg.sof0 then .ok ({ s with pState := .waitSof1 }, none) else .ok (s, none)

/-- WAIT_SOF1 (R153). A mismatching byte is not examined again. -/
def rxWaitSof1 (b : Byte) (s : State) : RxOutcome :=
  if b = s.cfg.sof1 then .ok ({ s with pState := .header, hdrCnt := 0, pCrc := 0xFFFF }, none)
  else .ok ({ s with pState := .waitSof0 }.count .framingErr, none)

/-- The decision at the fourth header byte (R154). -/
def rxHeaderEnd (s : State) : State :=
  let L := (joinLe16 (s.hdr.read 2) (s.hdr.read 3)).toNat
  if maxPayload < L then { s with pState := .waitSof0 }.count .framingErr
  else { s with pLen := L, payCnt := 0, pState := if L = 0 then .crcLo else .payload }

/-- HEADER (R154). -/
def rxHeader (b : Byte) (s : State) : RxOutcome :=
  if 4 ≤ s.hdrCnt then .error (.indexOutOfBounds .hdr s.hdrCnt)
  else
    let t := { s.storeHdr b with pCrc := crcStep s.pCrc b }
    if t.hdrCnt = 4 then .ok (rxHeaderEnd t, none) else .ok (t, none)

/-- PAYLOAD (R155). -/
def rxPayload (b : Byte) (s : State) : RxOutcome :=
  if maxPayload ≤ s.payCnt then .error (.indexOutOfBounds .pay s.payCnt)
  else
    let t := { s.storePay b with pCrc := crcStep s.pCrc b }
    if t.payCnt = t.pLen then .ok ({ t with pState := .crcLo }, none) else .ok (t, none)

/-- CRC_LO (R156). -/
def rxCrcLo (b : Byte) (s : State) : RxOutcome :=
  .ok ({ s with crcLo := b, pState := .crcHi }, none)

/-- CRC_HI (R157). -/
def rxCrcHi (b : Byte) (s : State) : RxOutcome :=
  if joinLe16 s.crcLo b = s.pCrc then
    if maxPayload < s.pLen then .error (.indexOutOfBounds .pay maxPayload)
    else
      .ok ({ s with pState := .waitSof0 }.count .framesOk,
        some ⟨s.hdr.read 0, s.hdr.read 1, s.pay.take s.pLen⟩)
  else .ok ({ s with pState := .waitSof0 }.count .framesBadCrc, none)

/-- The RX_BYTE step (R151): count the byte, then act on the state current when it arrives. -/
def rxStep (b : Byte) (s : State) : RxOutcome :=
  let t := s.count .bytesRx
  match s.pState with
  | .waitSof0 => rxWaitSof0 b t
  | .waitSof1 => rxWaitSof1 b t
  | .header => rxHeader b t
  | .payload => rxPayload b t
  | .crcLo => rxCrcLo b t
  | .crcHi => rxCrcHi b t

/-- RX_BYTE (R150). -/
def execRxByte (b : Byte) (d : Data) (s : State) : Result :=
  withNone d s <|
    match rxStep b s with
    | .error e => .fault e
    | .ok (t, none) => t.respond 0 .none
    | .ok (t, some f) =>
      t.respondEvent .frame (packFrame f.payload.length f.ty f.sq) (.bytes f.payload)

end Sys2Proof.Machine
end

