-- ==== Sys2Proof/Machine/Flags.lean ====
section
/-! DEFINITION. The block's only status flag, `latched`, and what it is computed from: the energy of a
chunk, the run counters and the flip (43_vad R183 to R185). -/

namespace Sys2Proof.Machine

/-- `|s|` (00_scope R9): wider than a sample, so that `|-32768| = 32768`. -/
def absSample (x : Sample) : Nat := x.toInt.natAbs

/-- `sum_abs` (R183), exact: it fits 32 bits (log entry 13). -/
def sumAbs (xs : List Sample) : Nat := (xs.map absSample).sum

/-- `avg_abs` (R183): floor division by `chunk_samples`. -/
def avgAbs (s : State) (xs : List Sample) : Nat := sumAbs xs / s.chunkSamples.toNat

/-- `voice` (R183): strictly above the threshold. -/
def isVoice (s : State) (xs : List Sample) : Bool := decide (s.vadThreshold.toNat < avgAbs s xs)

/-- The run counters after a chunk (R184): the one saturates upwards, the other becomes 0. -/
def State.updateRuns (s : State) (voice : Bool) : State :=
  if voice then { s with posRun := sat 16 (s.posRun.toNat + 1), negRun := 0 }
  else { s with negRun := sat 16 (s.negRun.toNat + 1), posRun := 0 }

/-- The latch after a chunk, from the runs just written, and the flip if there is one (R185): the new
value of the latch and the run that caused it. -/
def State.flip (s : State) : State × Option (Bool × Half) :=
  if s.latched = false ∧ s.vadPosCount ≤ s.posRun then
    ({ s with latched := true }, some (true, s.posRun))
  else if s.latched = true ∧ s.vadNegCount ≤ s.negRun then
    ({ s with latched := false }, some (false, s.negRun))
  else (s, none)

end Sys2Proof.Machine
end

