-- ==== Sys2Proof/Machine/Vad.lean ====
section
/-! DEFINITION. VAD_CHUNK (43_vad). -/

namespace Sys2Proof.Machine

/-- VAD_CHUNK (R181): the length check (R182), then the runs (R183, R184), the latch (R185) and the
event on a flip (R186). -/
def execVadChunk (d : Data) (s : State) : Result :=
  withSamples d s fun xs =>
    if s.chunkSamples = 0 ∨ xs.length ≠ s.chunkSamples.toNat then s.fail .badChunk
    else
      match (s.updateRuns (isVoice s xs)).flip with
      | (t, none) => t.respond 0 .none
      | (t, some (l, run)) => t.respondEvent .vadStatus (packVad l run) .none

end Sys2Proof.Machine
end

