-- ==== Sys2Proof/Machine/Dispatch.lean ====
section
/-! DEFINITION. The meaning of each operation of the opcode map (30_encoding R90). -/

namespace Sys2Proof.Machine

-- One operation, executed atomically on the block state (00_scope R6).
def exec (i : Instr) (s : State) : Host.Outcome State Fault Refusal :=
  match i with
  | .crcInit d => Sys2Proof.Machine.execCrcInit d s
  | .crcByte b d => Sys2Proof.Machine.execCrcByte b d s
  | .crcRead d => Sys2Proof.Machine.execCrcRead d s
  | .encodeFrame ty sq d => Sys2Proof.Machine.execEncodeFrame ty sq d s
  | .decodeFrame d => Sys2Proof.Machine.execDecodeFrame d s
  | .rxByte b d => Sys2Proof.Machine.execRxByte b d s
  | .vadChunk d => Sys2Proof.Machine.execVadChunk d s
  | .ringPush d => Sys2Proof.Machine.execRingPush d s
  | .ringPull count d => Sys2Proof.Machine.execRingPull count d s
  | .bufComplete d => Sys2Proof.Machine.execBufComplete d s
  | .cfgRead idx d => Sys2Proof.Machine.execCfgRead idx d s
  | .cfgWrite idx v d => Sys2Proof.Machine.execCfgWrite idx v d s
  | .statRead idx d => Sys2Proof.Machine.execStatRead idx d s
  | .statClear d => Sys2Proof.Machine.execStatClear d s
  | .softReset d => Sys2Proof.Machine.execSoftReset d s

end Sys2Proof.Machine
end

