-- ==== Sys2Proof/Machine/Step.lean ====
section
/-! DEFINITION. One step of the block: it takes the oldest command the port has accepted and executes it
(00_scope R6, 20_memory R70; log entry 1). -/

namespace Sys2Proof.Machine

/-- One command as one atomic operation: an illegal word fails ILLEGAL_CMD (30_encoding R92 a, b), any
other is the operation it encodes. -/
def issue (c : Command) (s : State) : Host.Outcome State Fault Refusal :=
  match decode c with
  | .ok i => exec i s
  | .error _ => s.fail .illegalCmd

/-- One step: the oldest pending command is taken off the queue and issued. With no command offered the
block keeps its state (60_exceptions R275). -/
def step (s : State) : Host.Outcome State Fault Refusal :=
  match s.pending with
  | [] => .next s
  | c :: cs => issue c { s with pending := cs }

/-- The state with the opcode table's word `w` of `nbits` bits as the command the next step takes. -/
def State.withFetchWord (s : State) (nbits w : Nat) : State :=
  { s with pending := .ofTableWord nbits w :: s.pending }

end Sys2Proof.Machine
end

