-- ==== Sys2Proof/Machine/Assembler.lean ====
section
/-! DEFINITION. The text of an operation (30_encoding R95) and the pseudo-operations (R96), which "expand
at assembly time into operations of rule R90". What R95 leaves open about the text is log entry 14. -/

namespace Sys2Proof.Machine

/-! ## Pseudo-operations (R96) -/

/-- `CRC16 [b0, …]` (R96). -/
def crc16Ops (bs : List Byte) : List Instr :=
  .crcInit .none :: bs.map (fun b => .crcByte b .none) ++ [.crcRead .none]

/-- `RX_BYTES [b0, …]` (R96). -/
def rxBytesOps (bs : List Byte) : List Instr := bs.map fun b => .rxByte b .none

/-- `RX_FRAME type=t, seq=q, [p…]` (R96): the assembler computes the frame, no ENCODE is issued. -/
def rxFrameOps (c : Config) (f : Frame) : List Instr := rxBytesOps (frameBytes c f)

/-- `VAD_CONFIG thr, pos, neg, chunk` (R96). -/
def vadConfigOps (thr pos neg chunk : Half) : List Instr :=
  [.cfgWrite 0 thr .none, .cfgWrite 1 pos .none, .cfgWrite 2 neg .none, .cfgWrite 3 chunk .none]

/-! ## Text to tokens -/

/-- Why a line does not assemble. -/
inductive AsmError where
  /-- The line is no mnemonic followed by comma-separated operands. -/
  | syntaxError
  /-- No operation or pseudo-operation has this name with operands of these shapes. -/
  | unknownOperation
  /-- "An operand that does not fit its field is an assembly error" (R95). -/
  | outOfRange
  deriving DecidableEq, Repr

/-- A token: a run of letters, digits, `_` and `-`, or one other character. -/
inductive Tok where
  | word (s : String)
  | punct (c : Char)
  deriving DecidableEq, Repr

/-- The word gathered so far (its characters reversed), if any, before `rest`. -/
def flushWord (acc : List Char) (rest : List Tok) : List Tok :=
  if acc.isEmpty then rest else .word (String.ofList acc.reverse) :: rest

/-- The tokens of a line; "a `;` starts a comment" (R95). -/
def lexLine : List Char → List Char → List Tok
  | acc, [] => flushWord acc []
  | acc, c :: cs =>
    if c == ';' then flushWord acc []
    else if c.isAlphanum || c == '_' || c == '-' then lexLine (c :: acc) cs
    else if c.isWhitespace then flushWord acc (lexLine [] cs)
    else flushWord acc (.punct c :: lexLine [] cs)

/-! ## Tokens to operands -/

/-- A digit's value in base 10 or 16. -/
def digitVal (hex : Bool) (c : Char) : Option Nat :=
  if '0' ≤ c ∧ c ≤ '9' then some (c.toNat - '0'.toNat)
  else if hex ∧ 'a' ≤ c ∧ c ≤ 'f' then some (c.toNat - 'a'.toNat + 10)
  else if hex ∧ 'A' ≤ c ∧ c ≤ 'F' then some (c.toNat - 'A'.toNat + 10)
  else none

/-- The value of a non-empty run of digits. -/
def digitsVal (hex : Bool) (cs : List Char) : Option Nat :=
  if cs.isEmpty then none
  else cs.foldl (fun n c => n.bind fun n => (digitVal hex c).map (n * (if hex then 16 else 10) + ·)) (some 0)

/-- A number: decimal, `0x` hex, or signed decimal (R95). -/
def numberVal (cs : List Char) : Option Int :=
  match cs with
  | '0' :: 'x' :: hs => (digitsVal true hs).map Int.ofNat
  | '-' :: ds => (digitsVal false ds).map fun n => -(n : Int)
  | ds => (digitsVal false ds).map Int.ofNat

/-- The shapes of an operand (R95). -/
inductive Operand where
  /-- a number -/
  | num (n : Int)
  /-- a register name -/
  | name (s : String)
  /-- `key=number` -/
  | keyed (key : String) (n : Int)
  /-- numbers in square brackets: a byte sequence -/
  | byteSeq (ns : List Int)
  /-- numbers in braces: a sample sequence -/
  | sampleSeq (ns : List Int)
  deriving DecidableEq, Repr

/-- The opening and closing brace of a sample sequence. -/
def openBrace : Char := Char.ofNat 0x7B

/-- See `openBrace`. -/
def closeBrace : Char := Char.ofNat 0x7D

/-- A word as an operand of its own: a number if it reads as one, else a name. -/
def wordOperand (s : String) : Operand :=
  match numberVal s.toList with
  | some n => .num n
  | none => .name s

/-- Where the operand parser stands. -/
inductive ParseMode where
  /-- no operand read yet: the line may end -/
  | first
  /-- an operand must follow -/
  | start
  /-- an operand has ended: a comma or the end must follow -/
  | ended
  /-- a word has been read, and `=` may follow -/
  | afterWord (s : String)
  /-- `key=` has been read, and a number must follow -/
  | afterKey (key : String)
  /-- inside a sequence, right after its opening bracket -/
  | seqFirst (bytes : Bool)
  /-- inside a sequence, after a comma: an element must follow -/
  | seqElem (bytes : Bool) (acc : List Int)
  /-- inside a sequence, after an element -/
  | seqSep (bytes : Bool) (acc : List Int)
  deriving DecidableEq, Repr

/-- A finished sequence as an operand. -/
def seqOperand (bytes : Bool) (acc : List Int) : Operand :=
  if bytes then .byteSeq acc.reverse else .sampleSeq acc.reverse

/-- The closing bracket of a sequence. -/
def seqClose (bytes : Bool) : Char := if bytes then ']' else closeBrace

/-- The comma-separated operands of a line; `acc` holds those read, the last first. -/
def parseOperands : ParseMode → List Operand → List Tok → Option (List Operand)
  | .first, acc, [] => some acc.reverse
  | .ended, acc, [] => some acc.reverse
  | .afterWord s, acc, [] => some (wordOperand s :: acc).reverse
  | _, _, [] => none
  | .first, acc, .word s :: ts => parseOperands (.afterWord s) acc ts
  | .start, acc, .word s :: ts => parseOperands (.afterWord s) acc ts
  | .first, acc, .punct c :: ts =>
    if c == '[' then parseOperands (.seqFirst true) acc ts
    else if c == openBrace then parseOperands (.seqFirst false) acc ts
    else none
  | .start, acc, .punct c :: ts =>
    if c == '[' then parseOperands (.seqFirst true) acc ts
    else if c == openBrace then parseOperands (.seqFirst false) acc ts
    else none
  | .ended, acc, .punct c :: ts => if c == ',' then parseOperands .start acc ts else none
  | .afterWord s, acc, .punct c :: ts =>
    if c == '=' then parseOperands (.afterKey s) acc ts
    else if c == ',' then parseOperands .start (wordOperand s :: acc) ts
    else none
  | .afterKey k, acc, .word s :: ts =>
    match numberVal s.toList with
    | some n => parseOperands .ended (.keyed k n :: acc) ts
    | none => none
  | .seqFirst b, acc, .punct c :: ts =>
    if c == seqClose b then parseOperands .ended (seqOperand b [] :: acc) ts else none
  | .seqFirst b, acc, .word s :: ts =>
    match numberVal s.toList with
    | some n => parseOperands (.seqSep b [n]) acc ts
    | none => none
  | .seqElem b xs, acc, .word s :: ts =>
    match numberVal s.toList with
    | some n => parseOperands (.seqSep b (n :: xs)) acc ts
    | none => none
  | .seqSep b xs, acc, .punct c :: ts =>
    if c == ',' then parseOperands (.seqElem b xs) acc ts
    else if c == seqClose b then parseOperands .ended (seqOperand b xs :: acc) ts
    else none
  | _, _, _ => none

/-! ## Operands to operations -/

/-- `<byte>` (R95): 0 to 255. -/
def asByte (n : Int) : Except AsmError Byte :=
  if 0 ≤ n ∧ n ≤ 255 then .ok (BitVec.ofInt 8 n) else .error .outOfRange

/-- `<u16>` and `<count>` (R95): 0 to 65535. -/
def asHalf (n : Int) : Except AsmError Half :=
  if 0 ≤ n ∧ n ≤ 65535 then .ok (BitVec.ofInt 16 n) else .error .outOfRange

/-- `<sample>` (R95): -32768 to 32767. -/
def asSample (n : Int) : Except AsmError Sample :=
  if -32768 ≤ n ∧ n ≤ 32767 then .ok (BitVec.ofInt 16 n) else .error .outOfRange

/-- A register index: 0 to 15 (R95). -/
def asIndex (n : Int) : Except AsmError (BitVec 4) :=
  if 0 ≤ n ∧ n ≤ 15 then .ok (BitVec.ofInt 4 n) else .error .outOfRange

/-- `<cfg-name>` (10_state R39). -/
def cfgNames : List (String × BitVec 4) :=
  [("VAD_THRESHOLD", 0), ("VAD_POS_COUNT", 1), ("VAD_NEG_COUNT", 2), ("CHUNK_SAMPLES", 3),
   ("PARSER_STATE", 8), ("VAD_LATCHED", 9), ("VAD_POS_RUN", 10), ("VAD_NEG_RUN", 11),
   ("RING_OCC", 12), ("OUT_ACTIVE", 13), ("RING_WR", 14), ("RING_RD", 15)]

/-- `<stat-name>` (10_state R37). -/
def statNames : List (String × BitVec 4) :=
  [("BYTES_RX", 0), ("FRAMES_OK", 1), ("FRAMES_BAD_CRC", 2), ("FRAMING_ERR", 3),
   ("FRAMES_SENT", 4), ("OVERFLOW", 5), ("UNDERRUN", 6)]

/-- A register operand: a number or a name of the table (R95). -/
def registerIndex (names : List (String × BitVec 4)) : Operand → Except AsmError (BitVec 4)
  | .num n => asIndex n
  | .name s =>
    match names.lookup s with
    | some i => .ok i
    | none => .error .unknownOperation
  | _ => .error .unknownOperation

/-- The frame of ENCODE's and RX_FRAME's operands `type=t, seq=q, [p…]`. -/
def frameOperands (t q : Int) (p : List Int) : Except AsmError Frame := do
  .ok ⟨← asByte t, ← asByte q, ← p.mapM asByte⟩

/-- The operations a mnemonic and its operands stand for (R95, R96). -/
def assembleOp (c : Config) (m : String) (ops : List Operand) : Except AsmError (List Instr) :=
  match m, ops with
  | "CRC_INIT", [] => .ok [.crcInit .none]
  | "CRC_BYTE", [.num b] => do .ok [.crcByte (← asByte b) .none]
  | "CRC_READ", [] => .ok [.crcRead .none]
  | "ENCODE", [.keyed "type" t, .keyed "seq" q, .byteSeq p] => do
    let f ← frameOperands t q p
    .ok [.encodeFrame f.ty f.sq (.bytes f.payload)]
  | "DECODE", [.byteSeq p] => do .ok [.decodeFrame (.bytes (← p.mapM asByte))]
  | "RX_BYTE", [.num b] => do .ok [.rxByte (← asByte b) .none]
  | "VAD_CHUNK", [.sampleSeq xs] => do .ok [.vadChunk (.samples (← xs.mapM asSample))]
  | "RING_PUSH", [.sampleSeq xs] => do .ok [.ringPush (.samples (← xs.mapM asSample))]
  | "RING_PULL", [.num n] => do .ok [.ringPull (← asHalf n) .none]
  | "BUF_COMPLETE", [] => .ok [.bufComplete .none]
  | "CFG_READ", [r] => do .ok [.cfgRead (← registerIndex cfgNames r) .none]
  | "CFG_WRITE", [r, .num v] => do .ok [.cfgWrite (← registerIndex cfgNames r) (← asHalf v) .none]
  | "STAT_READ", [r] => do .ok [.statRead (← registerIndex statNames r) .none]
  | "STAT_CLEAR", [] => .ok [.statClear .none]
  | "SOFT_RESET", [] => .ok [.softReset .none]
  | "CRC16", [.byteSeq p] => do .ok (crc16Ops (← p.mapM asByte))
  | "RX_BYTES", [.byteSeq p] => do .ok (rxBytesOps (← p.mapM asByte))
  | "RX_FRAME", [.keyed "type" t, .keyed "seq" q, .byteSeq p] => do
    let f ← frameOperands t q p
    if maxPayload < f.payload.length then .error .outOfRange else .ok (rxFrameOps c f)
  | "VAD_CONFIG", [.num thr, .num pos, .num neg, .num chunk] => do
    .ok (vadConfigOps (← asHalf thr) (← asHalf pos) (← asHalf neg) (← asHalf chunk))
  | _, _ => .error .unknownOperation

/-- One line of text as the operations it stands for: none for an empty line or a comment (R95). -/
def assembleLine (c : Config) (line : String) : Except AsmError (List Instr) :=
  match lexLine [] line.toList with
  | [] => .ok []
  | .word m :: ts =>
    match parseOperands .first [] ts with
    | some ops => assembleOp c m ops
    | none => .error .syntaxError
  | .punct _ :: _ => .error .syntaxError

end Sys2Proof.Machine
end

