-- ==== Sys2Proof/Safety.lean ====
section
/-! DEFINITION. The terms the claims are stated in: the legal commands (30_encoding R92), the invariants
of a block (42_rx_parser R159, 10_state R34 to R36, 43_vad R184), and runs of several operations. -/

namespace Sys2Proof.Machine

/-! ## Legal commands -/

/-- A row of the opcode table: a command word is the row's operation when `word & mask = pattern`, and its
data channel must be of the row's kind. -/
structure TableRow where
  mnemonic : String
  mask : Word
  pattern : Word
  kind : DataKind
  deriving DecidableEq, Repr

/-- spec/opcode_table.json, row by row. -/
def opcodeTable : List TableRow :=
  [⟨"CRC_INIT", 0xFFFFFFFF, 0x10000000, .none⟩,
   ⟨"CRC_BYTE", 0xFFFFFF00, 0x20000000, .none⟩,
   ⟨"CRC_READ", 0xFFFFFFFF, 0x30000000, .none⟩,
   ⟨"ENCODE", 0xFF00FF00, 0x40000000, .bytes⟩,
   ⟨"DECODE", 0xFFFFFFFF, 0x50000000, .bytes⟩,
   ⟨"RX_BYTE", 0xFFFFFF00, 0x60000000, .none⟩,
   ⟨"VAD_CHUNK", 0xFFFFFFFF, 0x70000000, .samples⟩,
   ⟨"RING_PUSH", 0xFFFFFFFF, 0x80000000, .samples⟩,
   ⟨"RING_PULL", 0xFFFF0000, 0x90000000, .none⟩,
   ⟨"BUF_COMPLETE", 0xFFFFFFFF, 0xA0000000, .none⟩,
   ⟨"CFG_READ", 0xF0FFFFFF, 0xB0000000, .none⟩,
   ⟨"CFG_WRITE", 0xF0FF0000, 0xC0000000, .none⟩,
   ⟨"STAT_READ", 0xF0FFFFFF, 0xD0000000, .none⟩,
   ⟨"STAT_CLEAR", 0xFFFFFFFF, 0xE0000000, .none⟩,
   ⟨"SOFT_RESET", 0xFFFFFFFF, 0xF0000000, .none⟩]

/-- A command that is not illegal (R92): its word is a row's and its data channel is of the row's kind. -/
abbrev Legal (c : Command) : Prop :=
  ∃ r ∈ opcodeTable, c.word &&& r.mask = r.pattern ∧ c.data.kind = r.kind

/-- The state with a successful response that carries no event. -/
def State.okWith (s : State) (value : Word) (data : Data) : State :=
  { s with resp := some ⟨.ok, value, data, .none⟩ }

/-- The state with the response of a failed operation (30_encoding R88): nothing else changes. -/
def State.failedWith (s : State) (status : Status) : State :=
  { s with resp := some ⟨status, 0, .none, .none⟩ }

/-- Every command of operation code `op` that does not match the table row's mask, pattern and data kind
fails ILLEGAL_CMD and changes nothing (30_encoding R92). -/
def IllegalUnless (op : BitVec 4) (mask pattern : Word) (kind : DataKind) : Prop :=
  ∀ (w : Word) (d : Data) (s : State), w.extractLsb' 28 4 = op →
    ¬ (w &&& mask = pattern ∧ d.kind = kind) →
    issue ⟨w, d⟩ s = .next (s.failedWith .illegalCmd)

/-! ## Invariants -/

/-- The parser's cursors stay inside its buffers (R159; the ranges of 10_state R22 to R24). -/
abbrev State.ParserInv (s : State) : Prop :=
  s.hdrCnt ≤ 4 ∧ s.payCnt ≤ maxPayload ∧ s.pLen ≤ maxPayload ∧
  (s.pState = .header → s.hdrCnt ≤ 3) ∧
  (s.pState = .payload → s.payCnt < s.pLen) ∧
  (s.pState = .crcLo ∨ s.pState = .crcHi → s.payCnt = s.pLen)

/-- The ring's cursors stay inside the ring (10_state R35). -/
abbrev State.RingInv (s : State) : Prop := s.wr < s.cfg.ringCap ∧ s.rd < s.cfg.ringCap

/-- Every array is in canonical form and inside its bounds (20_memory R60). -/
abbrev State.MemInv (s : State) : Prop :=
  (s.hdr.wf = true ∧ s.hdr.within 4 = true) ∧
  (s.pay.wf = true ∧ s.pay.within maxPayload = true) ∧
  (s.ring.wf = true ∧ s.ring.within s.cfg.ringCap = true) ∧
  (s.obuf0.wf = true ∧ s.obuf0.within s.cfg.outBufSamples = true) ∧
  (s.obuf1.wf = true ∧ s.obuf1.within s.cfg.outBufSamples = true)

/-- "at least one of `pos_run` and `neg_run` is 0" (43_vad R184). -/
abbrev State.VadInv (s : State) : Prop := s.posRun = 0 ∨ s.negRun = 0

/-- What holds of a block from power-on on, whatever it is asked to do. -/
abbrev State.Inv (s : State) : Prop :=
  s.cfg.Legal ∧ s.ParserInv ∧ s.RingInv ∧ s.MemInv ∧ s.VadInv

/-- The running CRC is the CRC of the part of the frame received so far (10_state R26, 42_rx_parser
R157), and `p_len` is the length the header declares. -/
abbrev State.CrcInv (s : State) : Prop :=
  (s.pState = .header → s.pCrc = crc16 (s.hdr.take s.hdrCnt)) ∧
  (s.pState = .payload ∨ s.pState = .crcLo ∨ s.pState = .crcHi →
    s.pCrc = crc16 (s.hdr.take 4 ++ s.pay.take s.payCnt) ∧
    s.pLen = (joinLe16 (s.hdr.read 2) (s.hdr.read 3)).toNat)

/-! ## Runs -/

/-- The outcome with its next state, if it has one, changed by `f`. -/
def mapNext (f : State → State) : Result → Result
  | .next s => .next (f s)
  | .fault e => .fault e
  | .refused r => .refused r

/-- Commands issued one after the other (20_memory R70), stopping at a fault or a refusal. -/
def issueAll : List Command → State → Result
  | [], s => .next s
  | c :: cs, s =>
    match issue c s with
    | .next t => issueAll cs t
    | .fault e => .fault e
    | .refused r => .refused r

/-- Operations executed one after the other: the state after them and their responses in order; none if
one of them stops. -/
def runOps : List Instr → State → Option (State × List Response)
  | [], s => some (s, [])
  | i :: is, s =>
    match exec i s with
    | .next t =>
      match runOps is t with
      | some (u, rs) => some (u, t.resp.toList ++ rs)
      | none => none
    | .fault _ => none
    | .refused _ => none

/-- A response that says nothing but OK: value 0, no data, no event. -/
def quiet : Response := ⟨.ok, 0, .none, .none⟩

/-- How many samples an operation gives to RING_PUSH's loop (44_audio_ring R206, `T`). -/
def pushAttempts : Instr → Nat
  | .ringPush (.samples xs) => xs.length
  | _ => 0

/-- How many slots an operation asks `pull` for (44_audio_ring R206, `U`). -/
def pullAttempts (c : Config) : Instr → Nat
  | .ringPull n .none => n.toNat
  | .bufComplete .none => c.outBufSamples
  | _ => 0

end Sys2Proof.Machine
end

