-- ==== Sys2Proof/Certificates/Slice0/Obligations.lean ====
section
/-! DEFINITION. The statements for the provers, each a claim of a numbered rule of spec/ about the model.
Log entry numbers in a docstring say that the statement rests on a choice of the model there. -/

open Sys2Proof Sys2Proof.Machine

/-! ## Encoding, the command port and runs -/

/-- R86, R90, R91: the decoder reads every operation back from its command, with every operand. -/
def Obligations.DecodeOfEncode : Prop := ∀ i : Instr, decode (encode i) = .ok i

/-- R86, R90, R92: a command that decodes is the encoding of what it decodes to, so that no two commands
are one operation. -/
def Obligations.EncodeOfDecode : Prop :=
  ∀ (c : Command) (i : Instr), decode c = .ok i → encode i = c

/-- R92: a command that matches no row of the opcode table (op 0, a reserved bit set, or the wrong data
kind) fails ILLEGAL_CMD with no state change, whatever else is wrong with it; any other command decodes to
a well-formed operation and is executed as that. -/
def Obligations.IllegalCommandsFail : Prop :=
  (∀ (c : Command) (s : State), ¬ Legal c → issue c s = .next (s.failedWith .illegalCmd)) ∧
  (∀ (d : Data) (s : State), issue ⟨0x00000000#32, d⟩ s = .next (s.failedWith .illegalCmd)) ∧
  (∀ (c : Command) (s : State), Legal c →
    ∃ i : Instr, decode c = .ok i ∧ i.WellFormed ∧ issue c s = exec i s)

/-- R90: words written out from the opcode map decode to the operations they stand for. -/
def Obligations.SpecWordsDecode : Prop :=
  decode ⟨0x10000000#32, .none⟩ = .ok (.crcInit .none) ∧
  decode ⟨0x20000031#32, .none⟩ = .ok (.crcByte 0x31 .none) ∧
  decode ⟨0x40100005#32, .bytes [1, 2, 3]⟩ = .ok (.encodeFrame 0x10 0x05 (.bytes [1, 2, 3])) ∧
  decode ⟨0x600000AA#32, .none⟩ = .ok (.rxByte 0xAA .none) ∧
  decode ⟨0x70000000#32, .samples [0]⟩ = .ok (.vadChunk (.samples [0])) ∧
  decode ⟨0x90000005#32, .none⟩ = .ok (.ringPull 5 .none) ∧
  decode ⟨0xC3000004#32, .none⟩ = .ok (.cfgWrite 3 4 .none)

/-- R6, R70, with the model's queue of accepted commands and its idle step (log entry 1): a step takes the
oldest command off the queue and is the execution of the operation it decodes to; an illegal word fails;
with no command the state stays. -/
def Obligations.StepRunsDecodedCommand : Prop :=
  (∀ (s : State) (c : Command) (cs : List Command) (i : Instr), s.pending = c :: cs →
    decode c = .ok i → step s = exec i { s with pending := cs }) ∧
  (∀ (s : State) (c : Command) (cs : List Command) (e : DecodeError), s.pending = c :: cs →
    decode c = .error e →
    step s = .next ({ s with pending := cs }.failedWith .illegalCmd)) ∧
  (∀ s : State, s.pending = [] → step s = .next s)

/-- R70: "The state after a sequence is the left fold of the operations' rules over that sequence", on the
model's queue (log entry 1): as many steps as there are commands are those commands issued in order,
whatever waits behind them. -/
def Obligations.RunIsLeftFold : Prop :=
  ∀ (cs rest : List Command) (s : State),
    (Sys2Proof.core.run cs.length ({ s with pending := cs ++ rest } : State) : Result) =
      mapNext (fun t => { t with pending := rest }) (issueAll cs { s with pending := [] })

/-- R283, R88: no operation changes a parameter of the build, and each leaves a response; the queue of
commands not yet taken is not touched (log entries 1 to 3). -/
def Obligations.ParametersAndQueueKept : Prop :=
  ∀ (i : Instr) (s t : State), exec i s = .next t →
    t.cfg = s.cfg ∧ t.pending = s.pending ∧ ∃ r, t.resp = some r

/-- R88, R262: an operation whose response is not OK changes nothing but the response, which has value 0,
no data and no event. -/
def Obligations.FailedOperationsChangeNothing : Prop :=
  ∀ (i : Instr) (s t : State) (r : Response), exec i s = .next t → t.resp = some r →
    r.status ≠ .ok → t = s.failedWith r.status

/-- R260: which operations can return which status. -/
def Obligations.StatusRaisedBy : Prop :=
  ∀ (i : Instr) (s t : State) (r : Response), exec i s = .next t → t.resp = some r →
    (r.status = .illegalCmd → ¬ i.WellFormed) ∧
    (r.status = .badReg → (∃ x, i = .cfgRead x .none) ∨ (∃ x v, i = .cfgWrite x v .none) ∨
      ∃ x, i = .statRead x .none) ∧
    (r.status = .payloadTooLarge → (∃ a b p, i = .encodeFrame a b (.bytes p) ∧ maxPayload < p.length) ∨
      ∃ F, i = .decodeFrame (.bytes F)) ∧
    (r.status = .crcMismatch ∨ r.status = .truncated ∨ r.status = .badSof ∨
      r.status = .lengthMismatch → ∃ F, i = .decodeFrame (.bytes F)) ∧
    (r.status = .badChunk → ∃ xs, i = .vadChunk (.samples xs))

/-- R266: "RX_BYTE can emit only FRAME and VAD_CHUNK only VAD_STATUS", and nothing else emits an event
(R264). -/
def Obligations.EventsEmittedBy : Prop :=
  ∀ (i : Instr) (s t : State) (r : Response), exec i s = .next t → t.resp = some r →
    (r.event = .frame → ∃ b, i = .rxByte b .none) ∧
    (r.event = .vadStatus → ∃ xs, i = .vadChunk (.samples xs))

/-- R20 to R37: the operations that write each part of the state, the seven Stats counters among them; every
other operation leaves it as it is. -/
def Obligations.StateWrittenOnlyBy : Prop :=
  ∀ (i : Instr) (s t : State), exec i s = .next t →
    ((∀ d, i ≠ .crcInit d) → (∀ b d, i ≠ .crcByte b d) → t.crcAcc = s.crcAcc) ∧
    ((∀ b d, i ≠ .rxByte b d) → t.hdr = s.hdr ∧ t.pay = s.pay) ∧
    ((∀ b d, i ≠ .rxByte b d) → (∀ d, i ≠ .softReset d) →
      t.pState = s.pState ∧ t.hdrCnt = s.hdrCnt ∧ t.payCnt = s.payCnt ∧ t.pLen = s.pLen ∧
        t.crcLo = s.crcLo ∧ t.pCrc = s.pCrc) ∧
    ((∀ d, i ≠ .vadChunk d) → (∀ d, i ≠ .softReset d) →
      t.posRun = s.posRun ∧ t.negRun = s.negRun ∧ t.latched = s.latched) ∧
    ((∀ x v d, i ≠ .cfgWrite x v d) → (∀ d, i ≠ .softReset d) →
      t.vadThreshold = s.vadThreshold ∧ t.vadPosCount = s.vadPosCount ∧
        t.vadNegCount = s.vadNegCount ∧ t.chunkSamples = s.chunkSamples) ∧
    ((∀ d, i ≠ .ringPush d) → t.ring = s.ring ∧ t.wr = s.wr) ∧
    ((∀ n d, i ≠ .ringPull n d) → (∀ d, i ≠ .bufComplete d) → t.rd = s.rd) ∧
    ((∀ d, i ≠ .bufComplete d) → t.obuf0 = s.obuf0 ∧ t.obuf1 = s.obuf1 ∧ t.active = s.active) ∧
    ((∀ b d, i ≠ .rxByte b d) → (∀ d, i ≠ .statClear d) →
      t.stats.bytesRx = s.stats.bytesRx ∧ t.stats.framesOk = s.stats.framesOk ∧
        t.stats.framesBadCrc = s.stats.framesBadCrc ∧ t.stats.framingErr = s.stats.framingErr) ∧
    ((∀ ty sq d, i ≠ .encodeFrame ty sq d) → (∀ d, i ≠ .statClear d) →
      t.stats.framesSent = s.stats.framesSent) ∧
    ((∀ d, i ≠ .ringPush d) → (∀ d, i ≠ .statClear d) → t.stats.overflow = s.stats.overflow) ∧
    ((∀ n d, i ≠ .ringPull n d) → (∀ d, i ≠ .bufComplete d) → (∀ d, i ≠ .statClear d) →
      t.stats.underrun = s.stats.underrun)

/-! ## Invariants -/

/-- R280: the values the spec gives for power-on, for every choice of the parameters, and the reset state
has the parameters of R7's value column. -/
def Obligations.PowerOnValues : Prop :=
  (∀ c : Config,
    (State.powerOn c).crcAcc = 0xFFFF#16 ∧ (State.powerOn c).pState = .waitSof0 ∧
    (State.powerOn c).hdrCnt = 0 ∧ (State.powerOn c).payCnt = 0 ∧ (State.powerOn c).pLen = 0 ∧
    (State.powerOn c).crcLo = 0#8 ∧ (State.powerOn c).pCrc = 0xFFFF#16 ∧
    (State.powerOn c).posRun = 0#16 ∧ (State.powerOn c).negRun = 0#16 ∧
    (State.powerOn c).latched = false ∧
    (State.powerOn c).vadThreshold = c.defVadThreshold ∧
    (State.powerOn c).vadPosCount = c.defVadPosCount ∧
    (State.powerOn c).vadNegCount = c.defVadNegCount ∧
    (State.powerOn c).chunkSamples = c.defChunkSamples ∧
    (State.powerOn c).wr = 0 ∧ (State.powerOn c).rd = 0 ∧
    (∀ b, (State.powerOn c).obuf b = List.replicate c.outBufSamples 0#16) ∧
    (State.powerOn c).active = 0 ∧ (∀ k, (State.powerOn c).stats.get k = 0#32)) ∧
  State.reset.vadThreshold = 1000#16 ∧ State.reset.vadPosCount = 3#16 ∧
  State.reset.vadNegCount = 3#16 ∧ State.reset.chunkSamples = 256#16

/-- R280, R159, R35, R184: the invariants hold at power-on, for every legal choice of the parameters. That
the arrays are in canonical form, and that `hdr`, `pay` and `ring` start empty, is the model's choice (log
entries 5 and 4). -/
def Obligations.InvariantsAtPowerOn : Prop :=
  (∀ c : Config, c.Legal → (State.powerOn c).Inv ∧ (State.powerOn c).CrcInv) ∧
  State.reset.Inv ∧ State.reset.CrcInv

/-- R159, R35, R60, R184: every step keeps the invariants: the cursors in range, the arrays in canonical
form (log entry 5) and in bounds, one VAD run zero, the parameters legal. -/
def Obligations.StepKeepsInvariant : Prop :=
  ∀ s t : State, s.Inv → step s = .next t → t.Inv

/-- R268: "Every operation is enabled in every state and completes." Every operation with any operands, and
every command, legal or not, completes in every state that keeps the invariants; so does every step. -/
def Obligations.EveryOperationCompletes : Prop :=
  ∀ s : State, s.Inv →
    (∀ i : Instr, ∃ t, exec i s = .next t) ∧ (∀ c : Command, ∃ t, issue c s = .next t) ∧
    ∃ t, step s = .next t

/-- R159: the parser's bounds hold at power-on and are kept by every operation and every step, and where
they hold RX_BYTE never indexes outside its buffers (the model's fault, log entry 6). -/
def Obligations.ParserBoundsKept : Prop :=
  (∀ c : Config, (State.powerOn c).ParserInv) ∧
  ∀ s : State, s.ParserInv →
    (∀ i t, exec i s = .next t → t.ParserInv) ∧ (∀ t, step s = .next t → t.ParserInv) ∧
    (∀ b d e, exec (.rxByte b d) s ≠ .fault e)

/-- R26: the running CRC is the CRC of the header and payload bytes received so far, and every step keeps
it so. -/
def Obligations.RunningCrcKept : Prop :=
  ∀ s t : State, s.Inv → s.CrcInv → step s = .next t → t.CrcInv

/-- R38: counting saturates at 0xFFFFFFFF and never wraps, one counter at a time, and no operation but
STAT_CLEAR makes a counter go down. -/
def Obligations.CountersSaturateAndNeverDecrease : Prop :=
  (∀ (s : State) (k : Counter),
    ((s.count k).stats.get k).toNat = min ((s.stats.get k).toNat + 1) 0xFFFFFFFF ∧
    ∀ j : Counter, j ≠ k → (s.count k).stats.get j = s.stats.get j) ∧
  (∀ (i : Instr) (s t : State), i ≠ .statClear .none → exec i s = .next t →
    ∀ k : Counter, s.stats.get k ≤ t.stats.get k)

/-- R68: the idempotent operations: issued a second time they leave the state they left. -/
def Obligations.IdempotentOperations : Prop :=
  ∀ (i : Instr) (s t : State), exec i s = .next t →
    ((∃ d, i = .crcInit d) ∨ (∃ d, i = .crcRead d) ∨ (∃ d, i = .decodeFrame d) ∨
      (∃ x d, i = .cfgRead x d) ∨ (∃ x v d, i = .cfgWrite x v d) ∨ (∃ x d, i = .statRead x d) ∨
      (∃ d, i = .statClear d) ∨ (∃ d, i = .softReset d)) →
    ∃ u, exec i t = .next u ∧ { u with resp := t.resp } = t

/-! ## CRC unit -/

/-- R110: `crc_step` is eight shifts of the accumulator with the byte XORed into its high byte; bit 15 is
tested before each shift. -/
def Obligations.CrcStepIsEightShifts : Prop :=
  ∀ (acc : Half) (b : Byte), ∃ a : Nat → Half,
    a 0 = acc ^^^ (b.zeroExtend 16 <<< 8) ∧
    (∀ k, a (k + 1) = if (a k).getLsbD 15 then (a k <<< 1) ^^^ 0x1021#16 else a k <<< 1) ∧
    crcStep acc b = a 8

/-- R114: `crc16` is the left fold of `crc_step` from 0xFFFF, with the check value. -/
def Obligations.CrcFunction : Prop :=
  (∀ d : List Byte, crc16 d = d.foldl crcStep 0xFFFF#16) ∧
  crc16 [] = 0xFFFF#16 ∧
  crc16 [0x31, 0x32, 0x33, 0x34, 0x35, 0x36, 0x37, 0x38, 0x39] = 0x29B1#16 ∧
  (∀ a b : List Byte, crc16 (a ++ b) = b.foldl crcStep (crc16 a))

/-- R111: CRC_INIT. -/
def Obligations.CrcInitOperation : Prop :=
  (∀ d, decode ⟨0x10000000#32, d⟩ = .ok (.crcInit d)) ∧
  IllegalUnless 0x1 0xFFFFFFFF 0x10000000 .none ∧
  (∀ s : State, exec (.crcInit .none) s = .next ({ s with crcAcc := 0xFFFF#16 }.okWith 0 .none))

/-- R112: CRC_BYTE. -/
def Obligations.CrcByteOperation : Prop :=
  (∀ (b : Byte) d, decode ⟨0x20000000#32 ||| b.zeroExtend 32, d⟩ = .ok (.crcByte b d)) ∧
  IllegalUnless 0x2 0xFFFFFF00 0x20000000 .none ∧
  (∀ (b : Byte) (s : State), exec (.crcByte b .none) s =
    .next ({ s with crcAcc := crcStep s.crcAcc b }.okWith 0 .none)) ∧
  crcStep 0#16 0#8 = 0#16 ∧ crcStep 0xFFFF#16 0x31#8 = 0xC782#16

/-- R113: CRC_READ, and that after CRC_INIT and CRC_BYTE over a sequence it returns `crc16` of it. -/
def Obligations.CrcReadOperation : Prop :=
  (∀ d, decode ⟨0x30000000#32, d⟩ = .ok (.crcRead d)) ∧
  IllegalUnless 0x3 0xFFFFFFFF 0x30000000 .none ∧
  (∀ s : State, exec (.crcRead .none) s = .next (s.okWith (s.crcAcc.zeroExtend 32) .none)) ∧
  (∀ (bs : List Byte) (s : State), runOps (crc16Ops bs) s =
    some ({ s with crcAcc := crc16 bs }.okWith ((crc16 bs).zeroExtend 32) .none,
      List.replicate (bs.length + 1) quiet ++ [⟨.ok, (crc16 bs).zeroExtend 32, .none, .none⟩])) ∧
  crc16 [0x31, 0x32, 0x33, 0x34, 0x35, 0x36, 0x37, 0x38, 0x39] = 0x29B1#16

/-- R115: the CRC unit neither reads nor writes `p_crc`, and the parser and the codec neither read nor
write `crc_acc`: any other value there goes through them unchanged and changes nothing. -/
def Obligations.CrcUnitIndependent : Prop :=
  ∀ (s : State) (x : Half) (d : Data) (b ty sq : Byte),
    (∀ i ∈ [Instr.crcInit d, .crcByte b d, .crcRead d],
      exec i { s with pCrc := x } = mapNext (fun t => { t with pCrc := x }) (exec i s)) ∧
    (∀ i ∈ [Instr.rxByte b d, .encodeFrame ty sq d, .decodeFrame d],
      exec i { s with crcAcc := x } = mapNext (fun t => { t with crcAcc := x }) (exec i s))

/-! ## Frame codec -/

/-- R80, R82, R130: the bytes of a frame, offset by offset, and the domain of its CRC. -/
def Obligations.FrameLayout : Prop :=
  ∀ (c : Config) (f : Frame), f.payload.length ≤ maxPayload →
    (frameBytes c f).length = 8 + f.payload.length ∧
    (frameBytes c f).getD 0 0 = c.sof0 ∧ (frameBytes c f).getD 1 0 = c.sof1 ∧
    (frameBytes c f).getD 2 0 = f.ty ∧ (frameBytes c f).getD 3 0 = f.sq ∧
    ((frameBytes c f).getD 4 0).toNat + 256 * ((frameBytes c f).getD 5 0).toNat = f.payload.length ∧
    ((frameBytes c f).getD 5 0).toNat ≤ 2 ∧
    (∀ k, k < f.payload.length → (frameBytes c f).getD (6 + k) 0 = f.payload.getD k 0) ∧
    (frameBytes c f).getD (6 + f.payload.length) 0 =
      (crc16 (((frameBytes c f).drop 2).take (4 + f.payload.length))).extractLsb' 0 8 ∧
    (frameBytes c f).getD (7 + f.payload.length) 0 =
      (crc16 (((frameBytes c f).drop 2).take (4 + f.payload.length))).extractLsb' 8 8

/-- R131: ENCODE, and its example and its corner case with CRC 0. -/
def Obligations.EncodeOperation : Prop :=
  (∀ (ty sq : Byte) d, decode ⟨0x40000000#32 ||| ty.zeroExtend 32 <<< 16 ||| sq.zeroExtend 32, d⟩ =
    .ok (.encodeFrame ty sq d)) ∧
  IllegalUnless 0x4 0xFF00FF00 0x40000000 .bytes ∧
  (∀ (ty sq : Byte) (p : List Byte) (s : State), p.length ≤ maxPayload →
    exec (.encodeFrame ty sq (.bytes p)) s =
      .next ((s.count .framesSent).okWith 0 (.bytes (frameBytes s.cfg ⟨ty, sq, p⟩)))) ∧
  (∀ (ty sq : Byte) (p : List Byte) (s : State), maxPayload < p.length →
    exec (.encodeFrame ty sq (.bytes p)) s = .next (s.failedWith .payloadTooLarge)) ∧
  frameBytes .default ⟨0x10, 0x05, [1, 2, 3]⟩ =
    [0xAA, 0x55, 0x10, 0x05, 0x03, 0x00, 0x01, 0x02, 0x03, 0x57, 0x0A] ∧
  frameBytes .default ⟨0xFF, 0xFF, []⟩ = [0xAA, 0x55, 0xFF, 0xFF, 0x00, 0x00, 0x00, 0x00]

/-- R132: decoding an encoded frame gives its fields back, and DECODE completes on it. -/
def Obligations.DecodeOfEncodedFrame : Prop :=
  ∀ f : Frame, f.payload.length ≤ maxPayload →
    (∀ c : Config, decodeFrameBytes c (frameBytes c f) = .ok f) ∧
    (∀ s : State, exec (.decodeFrame (.bytes (frameBytes s.cfg f))) s =
      .next (s.okWith (packFrame f.payload.length f.ty f.sq) (.bytes f.payload)))

/-- R133 (with R130): a byte sequence that DECODE accepts is the frame of the fields it returns. -/
def Obligations.DecodeAcceptsOnlyFrames : Prop :=
  ∀ (c : Config) (F : List Byte) (f : Frame), decodeFrameBytes c F = .ok f →
    f.payload.length ≤ maxPayload ∧ F = frameBytes c f

/-- R133: the checks of `decode_frame`, in their order. -/
def Obligations.DecodeChecksInOrder : Prop :=
  ∀ (c : Config) (F : List Byte),
    (F.length < 8 → decodeFrameBytes c F = .error .truncated) ∧
    (8 ≤ F.length → (F.getD 0 0 ≠ c.sof0 ∨ F.getD 1 0 ≠ c.sof1) →
      decodeFrameBytes c F = .error .badSof) ∧
    (8 ≤ F.length → F.getD 0 0 = c.sof0 → F.getD 1 0 = c.sof1 →
      ∀ L, L = (F.getD 4 0).toNat + 256 * (F.getD 5 0).toNat →
      (576 < L → decodeFrameBytes c F = .error .payloadTooLarge) ∧
      (L ≤ 576 → F.length ≠ 8 + L → decodeFrameBytes c F = .error .lengthMismatch) ∧
      (L ≤ 576 → F.length = 8 + L →
        (F.getD (6 + L) 0).toNat + 256 * (F.getD (7 + L) 0).toNat ≠
          (crc16 ((F.drop 2).take (4 + L))).toNat →
        decodeFrameBytes c F = .error .crcMismatch) ∧
      (L ≤ 576 → F.length = 8 + L →
        (F.getD (6 + L) 0).toNat + 256 * (F.getD (7 + L) 0).toNat =
          (crc16 ((F.drop 2).take (4 + L))).toNat →
        decodeFrameBytes c F = .ok ⟨F.getD 2 0, F.getD 3 0, (F.drop 6).take L⟩))

/-- R134: DECODE returns what `decode_frame` gives and changes nothing else, and its examples. -/
def Obligations.DecodeOperation : Prop :=
  (∀ d, decode ⟨0x50000000#32, d⟩ = .ok (.decodeFrame d)) ∧
  IllegalUnless 0x5 0xFFFFFFFF 0x50000000 .bytes ∧
  (∀ (F : List Byte) (f : Frame) (s : State), decodeFrameBytes s.cfg F = .ok f →
    exec (.decodeFrame (.bytes F)) s =
      .next (s.okWith (packFrame f.payload.length f.ty f.sq) (.bytes f.payload))) ∧
  (∀ (F : List Byte) (e : Status) (s : State), decodeFrameBytes s.cfg F = .error e →
    exec (.decodeFrame (.bytes F)) s = .next (s.failedWith e)) ∧
  decodeFrameBytes .default [0xAA, 0x55, 0x10, 0x05, 0x03, 0x00, 0x01, 0x02, 0x03, 0x57, 0x0A] =
    .ok ⟨0x10, 0x05, [1, 2, 3]⟩ ∧
  packFrame 3 0x10 0x05 = 0x00031005#32 ∧
  decodeFrameBytes .default [0xAA, 0x55, 0x10, 0x05, 0x03, 0x00, 0x01, 0x02, 0x03, 0x57, 0x0B] =
    .error .crcMismatch ∧
  decodeFrameBytes .default [] = .error .truncated

/-- R89: the fields of the packed response values. -/
def Obligations.PackedResponseFields : Prop :=
  (∀ (n : Nat) (ty sq : Byte), n ≤ maxPayload →
    ((packFrame n ty sq).extractLsb' 16 16).toNat = n ∧
    (packFrame n ty sq).extractLsb' 8 8 = ty ∧ (packFrame n ty sq).extractLsb' 0 8 = sq) ∧
  (∀ (l : Bool) (run : Half),
    (packVad l run).extractLsb' 16 16 = (if l then 1#16 else 0#16) ∧
    (packVad l run).extractLsb' 0 16 = run)

/-! ## RX parser -/

/-- R150: RX_BYTE's encoding, and that it always succeeds, with a FRAME event or with nothing. -/
def Obligations.RxByteOperation : Prop :=
  (∀ (b : Byte) d, decode ⟨0x60000000#32 ||| b.zeroExtend 32, d⟩ = .ok (.rxByte b d)) ∧
  IllegalUnless 0x6 0xFFFFFF00 0x60000000 .none ∧
  (∀ (b : Byte) (s : State), s.ParserInv → ∃ t r, exec (.rxByte b .none) s = .next t ∧
    t.resp = some r ∧ r.status = .ok ∧
    (r = quiet ∨ ∃ f : Frame, r = ⟨.ok, packFrame f.payload.length f.ty f.sq, .bytes f.payload, .frame⟩))

/-- R152 (with R151): WAIT_SOF0. -/
def Obligations.RxWaitSof0 : Prop :=
  ∀ (b : Byte) (s : State), s.pState = .waitSof0 →
    (b = s.cfg.sof0 → exec (.rxByte b .none) s =
      .next ({ s.count .bytesRx with pState := .waitSof1 }.okWith 0 .none)) ∧
    (b ≠ s.cfg.sof0 → exec (.rxByte b .none) s = .next ((s.count .bytesRx).okWith 0 .none))

/-- R153 (with R151): WAIT_SOF1; a mismatching byte is not examined again, even when it is SOF0. -/
def Obligations.RxWaitSof1 : Prop :=
  ∀ (b : Byte) (s : State), s.pState = .waitSof1 →
    (b = s.cfg.sof1 → exec (.rxByte b .none) s =
      .next ({ s.count .bytesRx with pState := .header, hdrCnt := 0, pCrc := 0xFFFF#16 }.okWith 0 .none)) ∧
    (b ≠ s.cfg.sof1 → exec (.rxByte b .none) s =
      .next (({ (s.count .bytesRx).count .framingErr with pState := .waitSof0 }).okWith 0 .none))

/-- R154 (with R151): HEADER. The header buffer is in canonical form and the cursor in range, as in every
state a run reaches. -/
def Obligations.RxHeader : Prop :=
  ∀ (b : Byte) (s : State), s.pState = .header → s.hdr.wf = true →
    (s.hdrCnt < 3 → exec (.rxByte b .none) s =
      .next ({ s.count .bytesRx with
        hdr := s.hdr.write s.hdrCnt b, hdrCnt := s.hdrCnt + 1,
        pCrc := crcStep s.pCrc b }.okWith 0 .none)) ∧
    (s.hdrCnt = 3 → ∀ L, L = (s.hdr.read 2).toNat + 256 * b.toNat →
      (576 < L → exec (.rxByte b .none) s =
        .next ({ (s.count .bytesRx).count .framingErr with
          hdr := s.hdr.write 3 b, hdrCnt := 4, pCrc := crcStep s.pCrc b,
          pState := .waitSof0 }.okWith 0 .none)) ∧
      (0 < L → L ≤ 576 → exec (.rxByte b .none) s =
        .next ({ s.count .bytesRx with
          hdr := s.hdr.write 3 b, hdrCnt := 4, pCrc := crcStep s.pCrc b,
          pLen := L, payCnt := 0, pState := .payload }.okWith 0 .none)) ∧
      (L = 0 → exec (.rxByte b .none) s =
        .next ({ s.count .bytesRx with
          hdr := s.hdr.write 3 b, hdrCnt := 4, pCrc := crcStep s.pCrc b,
          pLen := 0, payCnt := 0, pState := .crcLo }.okWith 0 .none)))

/-- R155 (with R151): PAYLOAD. -/
def Obligations.RxPayload : Prop :=
  ∀ (b : Byte) (s : State), s.pState = .payload → s.payCnt < s.pLen → s.pLen ≤ maxPayload →
    exec (.rxByte b .none) s =
      .next ({ s.count .bytesRx with
        pay := s.pay.write s.payCnt b, payCnt := s.payCnt + 1, pCrc := crcStep s.pCrc b,
        pState := if s.payCnt + 1 = s.pLen then .crcLo else .payload }.okWith 0 .none)

/-- R156 (with R151): CRC_LO. -/
def Obligations.RxCrcLo : Prop :=
  ∀ (b : Byte) (s : State), s.pState = .crcLo → exec (.rxByte b .none) s =
    .next ({ s.count .bytesRx with crcLo := b, pState := .crcHi }.okWith 0 .none)

/-- R157 (with R151): CRC_HI. -/
def Obligations.RxCrcHi : Prop :=
  ∀ (b : Byte) (s : State), s.pState = .crcHi →
    (s.crcLo.toNat + 256 * b.toNat = s.pCrc.toNat → s.pLen ≤ maxPayload →
      exec (.rxByte b .none) s =
        .next { (s.count .bytesRx).count .framesOk with
          pState := .waitSof0,
          resp := some ⟨.ok, packFrame s.pLen (s.hdr.read 0) (s.hdr.read 1),
            .bytes (s.pay.take s.pLen), .frame⟩ }) ∧
    (s.crcLo.toNat + 256 * b.toNat ≠ s.pCrc.toNat → exec (.rxByte b .none) s =
      .next ({ (s.count .bytesRx).count .framesBadCrc with pState := .waitSof0 }.okWith 0 .none))

/-- R157, R26, R82: a FRAME event carries only fields whose CRC, over the CRC domain, is the CRC received. -/
def Obligations.EmittedFrameHasItsCrc : Prop :=
  ∀ (b : Byte) (s t : State) (r : Response), s.Inv → s.CrcInv →
    exec (.rxByte b .none) s = .next t → t.resp = some r → r.event = .frame →
    ∃ f : Frame, f.payload.length ≤ maxPayload ∧
      r = ⟨.ok, packFrame f.payload.length f.ty f.sq, .bytes f.payload, .frame⟩ ∧
      crc16 (crcDomain f) = joinLe16 s.crcLo b

/-- R158: the ways back into WAIT_SOF0: a WAIT_SOF1 mismatch, an oversize length, the end of CRC_HI, and
SOFT_RESET. -/
def Obligations.WaysBackToHunting : Prop :=
  ∀ (i : Instr) (s t : State), s.hdr.wf = true → exec i s = .next t → s.pState ≠ .waitSof0 →
    t.pState = .waitSof0 →
    i = .softReset .none ∨
    ∃ b : Byte, i = .rxByte b .none ∧
      ((s.pState = .waitSof1 ∧ b ≠ s.cfg.sof1) ∨
       (s.pState = .header ∧ s.hdrCnt = 3 ∧ 576 < (s.hdr.read 2).toNat + 256 * b.toNat) ∨
       s.pState = .crcHi)

/-- R135: the parser, fed a whole frame from WAIT_SOF0, agrees with `decode_frame`. -/
def Obligations.ParserAgreesWithDecode : Prop :=
  ∀ (s : State) (F : List Byte), s.Inv → s.pState = .waitSof0 →
    (∀ f : Frame, decodeFrameBytes s.cfg F = .ok f →
      (∃ t, runOps (rxBytesOps F) s = some (t,
        List.replicate (F.length - 1) quiet ++
          [⟨.ok, packFrame f.payload.length f.ty f.sq, .bytes f.payload, .frame⟩]) ∧
        t.pState = .waitSof0) ∧
      (∀ e : List Byte, e ≠ [] → decodeFrameBytes s.cfg (F ++ e) = .error .lengthMismatch)) ∧
    (decodeFrameBytes s.cfg F = .error .crcMismatch →
      ∃ t u, runOps (rxBytesOps F.dropLast) s = some (t, List.replicate (F.length - 1) quiet) ∧
        t.stats.framesBadCrc = s.stats.framesBadCrc ∧
        runOps (rxBytesOps F) s = some (u, List.replicate F.length quiet) ∧
        u.stats.framesBadCrc = sat 32 (s.stats.framesBadCrc.toNat + 1) ∧ u.pState = .waitSof0) ∧
    (decodeFrameBytes s.cfg F = .error .payloadTooLarge →
      ∃ t u, runOps (rxBytesOps (F.take 5)) s = some (t, List.replicate 5 quiet) ∧
        t.stats.framingErr = s.stats.framingErr ∧
        runOps (rxBytesOps (F.take 6)) s = some (u, List.replicate 6 quiet) ∧
        u.stats.framingErr = sat 32 (s.stats.framingErr.toNat + 1) ∧ u.pState = .waitSof0)

/-! ## VAD -/

/-- R182: the length check. -/
def Obligations.VadChunkLengthCheck : Prop :=
  ∀ (s : State) (xs : List Sample), s.chunkSamples = 0#16 ∨ xs.length ≠ s.chunkSamples.toNat →
    exec (.vadChunk (.samples xs)) s = .next (s.failedWith .badChunk)

/-- R183: the energy and the voice decision, their bounds and their edge values. That samples are two's
complement, which the absolute values rest on, is the spec's own inference (log entry 10). -/
def Obligations.VadEnergy : Prop :=
  ∀ (s : State) (xs : List Sample), s.chunkSamples ≠ 0#16 → xs.length = s.chunkSamples.toNat →
    (isVoice s xs = true ↔
      s.vadThreshold.toNat < (xs.map fun x => x.toInt.natAbs).sum / s.chunkSamples.toNat) ∧
    (xs.map fun x => x.toInt.natAbs).sum ≤ 2147450880 ∧
    (xs.map fun x => x.toInt.natAbs).sum / s.chunkSamples.toNat ≤ 32768 ∧
    (s.vadThreshold = 0xFFFF#16 → isVoice s xs = false) ∧
    (s.vadThreshold = 0#16 → (isVoice s xs = true ↔
      1 ≤ (xs.map fun x => x.toInt.natAbs).sum / s.chunkSamples.toNat)) ∧
    absSample 0x8000#16 = 32768

/-- R181, R184, R185, R186: VAD_CHUNK on a chunk of the right length: the runs, the latch, the event, and
that nothing else changes. -/
def Obligations.VadChunkOperation : Prop :=
  (∀ d, decode ⟨0x70000000#32, d⟩ = .ok (.vadChunk d)) ∧
  IllegalUnless 0x7 0xFFFFFFFF 0x70000000 .samples ∧
  (∀ (s : State) (xs : List Sample), s.chunkSamples ≠ 0#16 → xs.length = s.chunkSamples.toNat →
    ∃ t, exec (.vadChunk (.samples xs)) s = .next t ∧
      t.posRun.toNat = (if isVoice s xs then min (s.posRun.toNat + 1) 0xFFFF else 0) ∧
      t.negRun.toNat = (if isVoice s xs then 0 else min (s.negRun.toNat + 1) 0xFFFF) ∧
      (t.posRun = 0 ∨ t.negRun = 0) ∧
      t.latched = (if s.latched = false ∧ s.vadPosCount.toNat ≤ t.posRun.toNat then true
        else if s.latched = true ∧ s.vadNegCount.toNat ≤ t.negRun.toNat then false else s.latched) ∧
      t.resp = some (if t.latched = s.latched then quiet
        else ⟨.ok, packVad t.latched (if t.latched then t.posRun else t.negRun), .none, .vadStatus⟩) ∧
      t = { s with posRun := t.posRun, negRun := t.negRun, latched := t.latched, resp := t.resp })

/-- R187 (a), (d): an unlatched VAD, fed voice chunks, latches on the one that makes the run
`vad_pos_count` long, and emits nothing before. -/
def Obligations.VadLatchesOnRun : Prop :=
  ∀ (s : State) (chunks : List (List Sample)), s.latched = false → s.chunkSamples ≠ 0#16 →
    (∀ x ∈ chunks, x.length = s.chunkSamples.toNat ∧ isVoice s x = true) → chunks ≠ [] →
    s.posRun.toNat + chunks.length ≤ s.vadPosCount.toNat →
    ∃ t, t.posRun.toNat = s.posRun.toNat + chunks.length ∧
      (s.posRun.toNat + chunks.length < s.vadPosCount.toNat → t.latched = false ∧
        runOps (chunks.map fun x => .vadChunk (.samples x)) s =
          some (t, List.replicate chunks.length quiet)) ∧
      (s.posRun.toNat + chunks.length = s.vadPosCount.toNat → t.latched = true ∧
        runOps (chunks.map fun x => .vadChunk (.samples x)) s =
          some (t, List.replicate (chunks.length - 1) quiet ++
            [⟨.ok, packVad true s.vadPosCount, .none, .vadStatus⟩]))

/-- R187 (c), (d): a latched VAD, fed chunks without voice, unlatches on the one that makes the run
`vad_neg_count` long, and emits nothing before. -/
def Obligations.VadUnlatchesOnRun : Prop :=
  ∀ (s : State) (chunks : List (List Sample)), s.latched = true → s.chunkSamples ≠ 0#16 →
    (∀ x ∈ chunks, x.length = s.chunkSamples.toNat ∧ isVoice s x = false) → chunks ≠ [] →
    s.negRun.toNat + chunks.length ≤ s.vadNegCount.toNat →
    ∃ t, t.negRun.toNat = s.negRun.toNat + chunks.length ∧
      (s.negRun.toNat + chunks.length < s.vadNegCount.toNat → t.latched = true ∧
        runOps (chunks.map fun x => .vadChunk (.samples x)) s =
          some (t, List.replicate chunks.length quiet)) ∧
      (s.negRun.toNat + chunks.length = s.vadNegCount.toNat → t.latched = false ∧
        runOps (chunks.map fun x => .vadChunk (.samples x)) s =
          some (t, List.replicate (chunks.length - 1) quiet ++
            [⟨.ok, packVad false s.vadNegCount, .none, .vadStatus⟩]))

/-! ## Audio ring and output buffers -/

/-- R202: RING_PUSH: as many samples as there is room for go to the slots from `wr` on, in order, each of
the rest counts one OVERFLOW; every other slot and everything else is unchanged. -/
def Obligations.RingPushOperation : Prop :=
  (∀ d, decode ⟨0x80000000#32, d⟩ = .ok (.ringPush d)) ∧
  IllegalUnless 0x8 0xFFFFFFFF 0x80000000 .samples ∧
  (∀ (s : State) (xs : List Sample), s.RingInv → s.ring.wf = true →
    s.ring.within s.cfg.ringCap = true →
    ∀ a, a = min xs.length (s.cfg.ringCap - 1 - s.occ) →
    ∃ t, exec (.ringPush (.samples xs)) s = .next t ∧
      t = { s with
        ring := t.ring
        wr := (s.wr + a) % s.cfg.ringCap
        stats := s.stats.set .overflow (sat 32 (s.stats.overflow.toNat + (xs.length - a)))
        resp := some quiet } ∧
      (∀ k, k < a → t.ring.read ((s.wr + k) % s.cfg.ringCap) = xs.getD k 0) ∧
      (∀ x, (∀ k, k < a → x ≠ (s.wr + k) % s.cfg.ringCap) → t.ring.read x = s.ring.read x))

/-- R203, R204: RING_PULL: the samples held come out in order from `rd` on, each further slot is silence and
counts one UNDERRUN; everything else is unchanged. -/
def Obligations.RingPullOperation : Prop :=
  (∀ (n : Half) d, decode ⟨0x90000000#32 ||| n.zeroExtend 32, d⟩ = .ok (.ringPull n d)) ∧
  IllegalUnless 0x9 0xFFFF0000 0x90000000 .none ∧
  (∀ (s : State) (n : Half), s.RingInv → ∀ c, c = min n.toNat s.occ →
    exec (.ringPull n .none) s =
      .next ({ s with
        rd := (s.rd + c) % s.cfg.ringCap
        stats := s.stats.set .underrun
          (sat 32 (s.stats.underrun.toNat + (n.toNat - c))) }.okWith 0
        (.samples ((List.range n.toNat).map fun k =>
          if k < s.occ then s.ring.read ((s.rd + k) % s.cfg.ringCap) else 0))))

/-- R205: BUF_COMPLETE: the other buffer becomes active and is returned, the one that was active is
refilled from the ring, and everything else is unchanged. -/
def Obligations.BufCompleteOperation : Prop :=
  (∀ d, decode ⟨0xA0000000#32, d⟩ = .ok (.bufComplete d)) ∧
  IllegalUnless 0xA 0xFFFFFFFF 0xA0000000 .none ∧
  (∀ s : State, s.RingInv → ∀ n c, n = s.cfg.outBufSamples → c = min n s.occ →
    ∃ t, exec (.bufComplete .none) s = .next t ∧
      t = { s with
        active := 1 - s.active
        obuf0 := t.obuf0
        obuf1 := t.obuf1
        rd := (s.rd + c) % s.cfg.ringCap
        stats := s.stats.set .underrun (sat 32 (s.stats.underrun.toNat + (n - c)))
        resp := some ⟨.ok, 0, .samples (s.obuf (1 - s.active)), .none⟩ } ∧
      t.obuf (1 - s.active) = s.obuf (1 - s.active) ∧
      t.obuf s.active = (List.range n).map fun k =>
        if k < s.occ then s.ring.read ((s.rd + k) % s.cfg.ringCap) else 0)

/-- R206: the conservation laws over any run without STAT_CLEAR in which neither counter saturates, from any
state that keeps the invariants (at power-on `occ` and the counters are 0): `A` samples accepted, `C` samples
taken, the rest of those given and asked for counted. -/
def Obligations.RingConservation : Prop :=
  ∀ (is : List Instr) (s t : State) (rs : List Response), s.Inv →
    (∀ i ∈ is, i ≠ .statClear .none) → runOps is s = some (t, rs) →
    t.stats.overflow ≠ 0xFFFFFFFF#32 → t.stats.underrun ≠ 0xFFFFFFFF#32 →
    ∃ A C : Nat, t.occ + C = s.occ + A ∧ t.occ ≤ s.cfg.ringCap - 1 ∧
      t.occ = (s.occ + A - C) % s.cfg.ringCap ∧
      t.stats.overflow.toNat + A = s.stats.overflow.toNat + (is.map pushAttempts).sum ∧
      t.stats.underrun.toNat + C = s.stats.underrun.toNat + (is.map (pullAttempts s.cfg)).sum

/-- R202, R203: what is pushed into an empty ring with room for it is what a pull of as many samples
returns, in order. -/
def Obligations.RingIsFifo : Prop :=
  ∀ (s : State) (xs : List Sample) (n : Half), s.Inv → s.occ = 0 → n.toNat = xs.length →
    xs.length < s.cfg.ringCap →
    ∃ t, runOps [.ringPush (.samples xs), .ringPull n .none] s =
      some (t, [quiet, ⟨.ok, 0, .samples xs, .none⟩]) ∧ t.occ = 0 ∧ t.stats = s.stats

/-- R207, R286: a buffer's samples are those pulled at one BUF_COMPLETE, stay as they are until the next
one, whatever comes between, and are what the next one returns. -/
def Obligations.BufferPathTakesTwo : Prop :=
  (∀ (i : Instr) (s t : State), (∀ d, i ≠ .bufComplete d) → exec i s = .next t →
    t.active = s.active ∧ ∀ b, t.obuf b = s.obuf b) ∧
  (∀ (s t : State) (is : List Instr) (rs : List Response), s.Inv →
    (∀ i ∈ is, ∀ d, i ≠ .bufComplete d) →
    runOps (.bufComplete .none :: is ++ [.bufComplete .none]) s = some (t, rs) →
    rs.getLast? = some ⟨.ok, 0, .samples ((List.range s.cfg.outBufSamples).map fun k =>
      if k < s.occ then s.ring.read ((s.rd + k) % s.cfg.ringCap) else 0), .none⟩)

/-! ## Control -/

/-- R230 (with R39, R93): CFG_READ, register by register. -/
def Obligations.CfgReadOperation : Prop :=
  (∀ (x : BitVec 4) d, decode ⟨0xB0000000#32 ||| x.zeroExtend 32 <<< 24, d⟩ = .ok (.cfgRead x d)) ∧
  IllegalUnless 0xB 0xF0FFFFFF 0xB0000000 .none ∧
  (∀ s : State,
    (∀ x ∈ [4#4, 5#4, 6#4, 7#4], exec (.cfgRead x .none) s = .next (s.failedWith .badReg)) ∧
    exec (.cfgRead 0 .none) s = .next (s.okWith (s.vadThreshold.zeroExtend 32) .none) ∧
    exec (.cfgRead 1 .none) s = .next (s.okWith (s.vadPosCount.zeroExtend 32) .none) ∧
    exec (.cfgRead 2 .none) s = .next (s.okWith (s.vadNegCount.zeroExtend 32) .none) ∧
    exec (.cfgRead 3 .none) s = .next (s.okWith (s.chunkSamples.zeroExtend 32) .none) ∧
    exec (.cfgRead 8 .none) s = .next (s.okWith
      (match s.pState with
        | .waitSof0 => 0 | .waitSof1 => 1 | .header => 2 | .payload => 3 | .crcLo => 4 | .crcHi => 5)
      .none) ∧
    exec (.cfgRead 9 .none) s = .next (s.okWith (if s.latched then 1 else 0) .none) ∧
    exec (.cfgRead 10 .none) s = .next (s.okWith (s.posRun.zeroExtend 32) .none) ∧
    exec (.cfgRead 11 .none) s = .next (s.okWith (s.negRun.zeroExtend 32) .none) ∧
    (s.cfg.Legal → s.RingInv → ∃ v : Word, v.toNat = (s.wr + s.cfg.ringCap - s.rd) % s.cfg.ringCap ∧
      exec (.cfgRead 12 .none) s = .next (s.okWith v .none)) ∧
    exec (.cfgRead 13 .none) s = .next (s.okWith (if s.active = 0 then 0 else 1) .none) ∧
    (s.cfg.Legal → s.RingInv → ∃ v u : Word, v.toNat = s.wr ∧ u.toNat = s.rd ∧
      exec (.cfgRead 14 .none) s = .next (s.okWith v .none) ∧
      exec (.cfgRead 15 .none) s = .next (s.okWith u .none)))

/-- R231, R232: CFG_WRITE: the four writable registers take every value; every other index fails BAD_REG
and changes nothing. -/
def Obligations.CfgWriteOperation : Prop :=
  (∀ (x : BitVec 4) (v : Half) d,
    decode ⟨0xC0000000#32 ||| x.zeroExtend 32 <<< 24 ||| v.zeroExtend 32, d⟩ = .ok (.cfgWrite x v d)) ∧
  IllegalUnless 0xC 0xF0FF0000 0xC0000000 .none ∧
  (∀ (s : State) (v : Half),
    exec (.cfgWrite 0 v .none) s = .next ({ s with vadThreshold := v }.okWith 0 .none) ∧
    exec (.cfgWrite 1 v .none) s = .next ({ s with vadPosCount := v }.okWith 0 .none) ∧
    exec (.cfgWrite 2 v .none) s = .next ({ s with vadNegCount := v }.okWith 0 .none) ∧
    exec (.cfgWrite 3 v .none) s = .next ({ s with chunkSamples := v }.okWith 0 .none) ∧
    ∀ x : BitVec 4, 3#4 < x → exec (.cfgWrite x v .none) s = .next (s.failedWith .badReg))

/-- R233 (with R37, R93): STAT_READ, counter by counter. -/
def Obligations.StatReadOperation : Prop :=
  (∀ (x : BitVec 4) d, decode ⟨0xD0000000#32 ||| x.zeroExtend 32 <<< 24, d⟩ = .ok (.statRead x d)) ∧
  IllegalUnless 0xD 0xF0FFFFFF 0xD0000000 .none ∧
  (∀ s : State,
    exec (.statRead 0 .none) s = .next (s.okWith s.stats.bytesRx .none) ∧
    exec (.statRead 1 .none) s = .next (s.okWith s.stats.framesOk .none) ∧
    exec (.statRead 2 .none) s = .next (s.okWith s.stats.framesBadCrc .none) ∧
    exec (.statRead 3 .none) s = .next (s.okWith s.stats.framingErr .none) ∧
    exec (.statRead 4 .none) s = .next (s.okWith s.stats.framesSent .none) ∧
    exec (.statRead 5 .none) s = .next (s.okWith s.stats.overflow .none) ∧
    exec (.statRead 6 .none) s = .next (s.okWith s.stats.underrun .none) ∧
    ∀ x : BitVec 4, 6#4 < x → exec (.statRead x .none) s = .next (s.failedWith .badReg))

/-- R234: STAT_CLEAR clears all seven counters and nothing else. -/
def Obligations.StatClearOperation : Prop :=
  (∀ d, decode ⟨0xE0000000#32, d⟩ = .ok (.statClear d)) ∧
  IllegalUnless 0xE 0xFFFFFFFF 0xE0000000 .none ∧
  (∀ s : State, ∃ t, exec (.statClear .none) s = .next t ∧ (∀ k, t.stats.get k = 0#32) ∧
    t = { s with stats := t.stats, resp := some quiet })

/-- R235: SOFT_RESET: the configuration, the VAD and the parser go to their defaults, everything else
stays, and a second one changes nothing. -/
def Obligations.SoftResetOperation : Prop :=
  (∀ d, decode ⟨0xF0000000#32, d⟩ = .ok (.softReset d)) ∧
  IllegalUnless 0xF 0xFFFFFFFF 0xF0000000 .none ∧
  (∀ s : State, ∃ t, exec (.softReset .none) s = .next t ∧
    t = { s with
      vadThreshold := s.cfg.defVadThreshold, vadPosCount := s.cfg.defVadPosCount,
      vadNegCount := s.cfg.defVadNegCount, chunkSamples := s.cfg.defChunkSamples,
      posRun := 0, negRun := 0, latched := false,
      pState := .waitSof0, hdrCnt := 0, payCnt := 0, pLen := 0, crcLo := 0, pCrc := 0xFFFF#16,
      resp := some quiet } ∧
    exec (.softReset .none) t = .next t)

/-! ## Data formats and text -/

/-- R64: `pcm16le` reads two bytes, low byte first, as a two's-complement sample. -/
def Obligations.PcmConversion : Prop :=
  (∀ lo hi : Byte, (pcm16le lo hi).toInt =
    ((lo.toNat + 256 * hi.toNat : Nat) : Int) - 65536 * (if hi.getLsbD 7 then 1 else 0)) ∧
  (pcm16le 0x00 0x80).toInt = -32768 ∧ (pcm16le 0xFF 0x7F).toInt = 32767

/-- R95: whatever the text, what it assembles to is well formed and is what its command words decode to:
"It never produces a word with reserved bits set." -/
def Obligations.AssembledOperationsAreLegal : Prop :=
  ∀ (c : Config) (line : String) (is : List Instr), assembleLine c line = .ok is →
    ∀ i ∈ is, i.WellFormed ∧ Legal (encode i)
end

