-- ==== Sys2Proof/Laws/Bytes.lean ====
section
/-! SUPPORT. A 16-bit value and its two bytes (00_scope R10, 30_encoding R84, R85). -/

namespace Sys2Proof.Machine

theorem joinLe16_toNat (lo hi : Byte) : (joinLe16 lo hi).toNat = lo.toNat + 256 * hi.toNat := by
  have := lo.isLt
  have := hi.isLt
  simp only [joinLe16, BitVec.toNat_append, Nat.shiftLeft_eq]
  rw [Nat.mul_comm, ← Nat.two_pow_add_eq_or_of_lt (by omega)]
  omega

@[simp] theorem joinLe16_lo (lo hi : Byte) : (joinLe16 lo hi).extractLsb' 0 8 = lo := by
  apply BitVec.eq_of_toNat_eq
  have := lo.isLt
  simp only [BitVec.extractLsb'_toNat, Nat.shiftRight_zero, joinLe16_toNat]
  omega

@[simp] theorem joinLe16_hi (lo hi : Byte) : (joinLe16 lo hi).extractLsb' 8 8 = hi := by
  apply BitVec.eq_of_toNat_eq
  have := lo.isLt
  have := hi.isLt
  simp only [BitVec.extractLsb'_toNat, Nat.shiftRight_eq_div_pow, joinLe16_toNat]
  omega

/-- A value is its low byte and its high byte. -/
@[simp] theorem joinLe16_extract (v : Half) :
    joinLe16 (v.extractLsb' 0 8) (v.extractLsb' 8 8) = v := by
  apply BitVec.eq_of_toNat_eq
  have := v.isLt
  simp only [joinLe16_toNat, BitVec.extractLsb'_toNat, Nat.shiftRight_eq_div_pow]
  omega

/-- The shift-and-or form in which the spec writes it (R84). -/
theorem joinLe16_eq (lo hi : Byte) :
    joinLe16 lo hi = lo.zeroExtend 16 ||| (hi.zeroExtend 16 <<< 8) := by
  refine BitVec.eq_of_getLsbD_eq fun i h => ?_
  unfold joinLe16
  rw [BitVec.getLsbD_append]
  simp only [BitVec.getLsbD_or, BitVec.getLsbD_shiftLeft, BitVec.truncate_eq_setWidth,
    BitVec.getLsbD_setWidth, h]
  by_cases h8 : i < 8
  · simp [h8]
  · have : i - 8 < 16 := by omega
    simp [h8, this, BitVec.getLsbD_of_ge lo i (by omega)]

theorem joinLe16_eq_iff (lo hi : Byte) (v : Half) :
    joinLe16 lo hi = v ↔ lo.toNat + 256 * hi.toNat = v.toNat := by
  rw [← joinLe16_toNat]
  exact ⟨fun h => by rw [h], BitVec.eq_of_toNat_eq⟩

@[simp] theorem le16_length (v : Half) : (le16 v).length = 2 := rfl

end Sys2Proof.Machine
end

