-- ==== Sys2Proof/Laws/Decode.lean ====
section
/-! SUPPORT. The fields of a command word: a word is its five fields, the fields of a word made of fields
are those, and masks act field by field. -/

namespace Sys2Proof

open Machine

/-- Bit `i` of a word, from its fields. -/
theorem Fields.getLsbD_toWord (f : Fields) (i : Nat) :
    f.toWord.getLsbD i =
      if i < 8 then f.immLo.getLsbD i
      else if i < 16 then f.immHi.getLsbD (i - 8)
      else if i < 24 then f.b8.getLsbD (i - 16)
      else if i < 28 then f.idx.getLsbD (i - 24)
      else f.op.getLsbD (i - 28) := by
  simp only [Fields.toWord, BitVec.getLsbD_append]
  split_ifs <;> first | omega | congr 1

theorem Fields.ofWord_toWord (f : Fields) : Fields.ofWord f.toWord = f := by
  obtain ⟨op, idx, b8, hi, lo⟩ := f
  simp only [Fields.ofWord, Fields.mk.injEq]
  refine ⟨?_, ?_, ?_, ?_, ?_⟩ <;>
    · refine BitVec.eq_of_getLsbD_eq fun i h => ?_
      rw [BitVec.getLsbD_extractLsb', Fields.getLsbD_toWord]
      simp (disch := omega) only [if_pos, if_neg, h, decide_true, Bool.true_and]
      first | rfl | (congr 1; omega)

theorem Fields.toWord_ofWord (w : Word) : (Fields.ofWord w).toWord = w := by
  refine BitVec.eq_of_getLsbD_eq fun i h => ?_
  rw [Fields.getLsbD_toWord]
  simp only [Fields.ofWord, BitVec.getLsbD_extractLsb']
  split_ifs <;>
    · rw [decide_eq_true (by omega), Bool.true_and]
      congr 1
      omega

theorem Fields.toWord_inj {f g : Fields} : f.toWord = g.toWord ↔ f = g :=
  ⟨fun h => by rw [← Fields.ofWord_toWord f, h, Fields.ofWord_toWord], fun h => h ▸ rfl⟩

/-- A command is decoded by the fields its word is made of. -/
theorem decode_toWord (f : Fields) (d : Data) : decode ⟨f.toWord, d⟩ = decodeFields f d := by
  rw [decode, Fields.ofWord_toWord]

/-- A mask acts field by field. -/
theorem Fields.toWord_and (f g : Fields) :
    f.toWord &&& g.toWord =
      Fields.toWord ⟨f.op &&& g.op, f.idx &&& g.idx, f.b8 &&& g.b8, f.immHi &&& g.immHi,
        f.immLo &&& g.immLo⟩ := by
  refine BitVec.eq_of_getLsbD_eq fun i _ => ?_
  simp only [BitVec.getLsbD_and, Fields.getLsbD_toWord]
  split_ifs <;> rfl

@[simp] theorem Fields.imm16_extract (op idx : BitVec 4) (b8 : Byte) (v : Half) :
    Fields.imm16 ⟨op, idx, b8, v.extractLsb' 8 8, v.extractLsb' 0 8⟩ = v := joinLe16_extract v

@[simp] theorem Fields.imm16_lo (f : Fields) : f.imm16.extractLsb' 0 8 = f.immLo := joinLe16_lo _ _

@[simp] theorem Fields.imm16_hi (f : Fields) : f.imm16.extractLsb' 8 8 = f.immHi := joinLe16_hi _ _

end Sys2Proof
end

