-- ==== Sys2Proof/Laws/Memory.lean ====
section
/-! SUPPORT. The laws of the internal arrays: a read after a write, the canonical form, and the contents
of an array written whole. -/

namespace Sys2Proof.Machine

variable {w : Nat}

@[simp] theorem Memory.read_nil (i : Nat) : Memory.read ([] : Memory w) i = 0#w := rfl

theorem Memory.read_cons (j : Nat) (v : BitVec w) (m : Memory w) (i : Nat) :
    Memory.read ((j, v) :: m) i = if i = j then v else Memory.read m i := rfl

theorem Memory.wfFrom_cons (lo i : Nat) (v : BitVec w) (m : Memory w) :
    Memory.wfFrom lo ((i, v) :: m) = true ↔ lo ≤ i ∧ v ≠ 0#w ∧ Memory.wfFrom (i + 1) m = true := by
  simp [Memory.wfFrom, and_assoc]

theorem Memory.wfFrom_mono {lo lo' : Nat} {m : Memory w} (h : Memory.wfFrom lo m = true)
    (hl : lo' ≤ lo) : Memory.wfFrom lo' m = true := by
  cases m with
  | nil => rfl
  | cons c m =>
    obtain ⟨i, v⟩ := c
    rw [Memory.wfFrom_cons] at h ⊢
    exact ⟨by omega, h.2⟩

/-- Below its first possible index an array in canonical form reads 0. -/
theorem Memory.read_below {lo : Nat} {m : Memory w} (h : Memory.wfFrom lo m = true) {i : Nat}
    (hi : i < lo) : Memory.read m i = 0#w := by
  induction m generalizing lo with
  | nil => rfl
  | cons c m ih =>
    obtain ⟨j, v⟩ := c
    rw [Memory.wfFrom_cons] at h
    rw [Memory.read_cons, if_neg (by omega)]
    exact ih h.2.2 (by omega)

/-- A read after a write, in an array in canonical form. -/
theorem Memory.read_write {lo : Nat} {m : Memory w} (h : Memory.wfFrom lo m = true) (i j : Nat)
    (v : BitVec w) : Memory.read (Memory.write m i v) j = if j = i then v else Memory.read m j := by
  induction m generalizing lo with
  | nil =>
    simp only [Memory.write]
    split <;> simp_all [Memory.read]
  | cons c m ih =>
    obtain ⟨k, u⟩ := c
    rw [Memory.wfFrom_cons] at h
    have below : i < k + 1 → Memory.read m i = 0#w := Memory.read_below h.2.2
    simp only [Memory.write]
    by_cases hik : i < k
    · by_cases hv : v = 0#w
      · simp only [hik, hv, if_true, Memory.read_cons]
        by_cases hj : j = i
        · subst hj
          simp [show j ≠ k by omega, below (by omega)]
        · simp [hj]
      · simp [hik, hv, Memory.read_cons]
    · by_cases he : i = k
      · subst he
        by_cases hv : v = 0#w
        · simp only [lt_self_iff_false, if_false, if_true, hv, Memory.read_cons]
          by_cases hj : j = i
          · subst hj
            simp [below (by omega)]
          · simp [hj]
        · simp only [lt_self_iff_false, if_false, if_true, hv, Memory.read_cons]
          split <;> rfl
      · simp only [hik, he, if_false, Memory.read_cons, ih h.2.2]
        by_cases hj : j = k
        · subst hj
          simp [Ne.symm he]
        · simp [hj]

theorem Memory.wfFrom_write {lo : Nat} {m : Memory w} (h : Memory.wfFrom lo m = true) (i : Nat)
    (v : BitVec w) (hi : lo ≤ i) : Memory.wfFrom lo (Memory.write m i v) = true := by
  induction m generalizing lo with
  | nil =>
    simp only [Memory.write]
    split
    · rfl
    · rename_i hv
      simp [Memory.wfFrom, hv, hi]
  | cons c m ih =>
    obtain ⟨k, u⟩ := c
    have h' := h
    rw [Memory.wfFrom_cons] at h
    simp only [Memory.write]
    split
    · split
      · exact h'
      · rename_i hik hv
        simp only [Memory.wfFrom_cons]
        exact ⟨hi, hv, by omega, h.2⟩
    · split
      · split
        · exact Memory.wfFrom_mono h.2.2 (by omega)
        · rename_i he hv
          simp only [Memory.wfFrom_cons]
          exact ⟨hi, hv, he ▸ h.2.2⟩
      · simp only [Memory.wfFrom_cons]
        exact ⟨h.1, h.2.1, ih h.2.2 (by omega)⟩

theorem Memory.wfFrom_ofListFrom (xs : List (BitVec w)) (i : Nat) :
    Memory.wfFrom i (Memory.ofListFrom i xs) = true := by
  induction xs generalizing i with
  | nil => rfl
  | cons v xs ih =>
    simp only [Memory.ofListFrom]
    split
    · exact Memory.wfFrom_mono (ih (i + 1)) (by omega)
    · rename_i hv
      rw [Memory.wfFrom_cons]
      exact ⟨le_rfl, hv, ih (i + 1)⟩

/-- The canonical form holds of an array that nothing has written. -/
@[simp] theorem Memory.wf_nil : Memory.wf ([] : Memory w) = true := rfl

/-- A write keeps the canonical form. -/
theorem Memory.wf_write {m : Memory w} (h : m.wf = true) (i : Nat) (v : BitVec w) :
    (m.write i v).wf = true := Memory.wfFrom_write h i v (Nat.zero_le i)

/-- An array written whole is in canonical form. -/
theorem Memory.wf_ofListFrom (xs : List (BitVec w)) (i : Nat) :
    (Memory.ofListFrom i xs).wf = true :=
  Memory.wfFrom_mono (Memory.wfFrom_ofListFrom xs i) (Nat.zero_le i)

theorem Memory.read_write_self {m : Memory w} (h : m.wf = true) (i : Nat) (v : BitVec w) :
    (m.write i v).read i = v := by rw [Memory.read_write h, if_pos rfl]

theorem Memory.read_write_ne {m : Memory w} (h : m.wf = true) {i j : Nat} (v : BitVec w)
    (hj : j ≠ i) : (m.write i v).read j = m.read j := by rw [Memory.read_write h, if_neg hj]

/-- Two arrays in canonical form that read alike everywhere are equal lists. -/
theorem Memory.ext_read {m m' : Memory w} (h : m.wf = true) (h' : m'.wf = true)
    (e : ∀ i, m.read i = m'.read i) : m = m' := by
  suffices go : ∀ (m m' : Memory w) (lo : Nat), Memory.wfFrom lo m = true →
      Memory.wfFrom lo m' = true → (∀ i, m.read i = m'.read i) → m = m' from go m m' 0 h h' e
  intro m
  induction m with
  | nil =>
    intro m' lo _ h' e
    cases m' with
    | nil => rfl
    | cons c m' =>
      obtain ⟨j, v⟩ := c
      rw [Memory.wfFrom_cons] at h'
      have := e j
      simp [Memory.read_cons] at this
      exact absurd this.symm h'.2.1
  | cons c m ih =>
    intro m' lo h h' e
    obtain ⟨j, v⟩ := c
    cases m' with
    | nil =>
      rw [Memory.wfFrom_cons] at h
      have := e j
      simp [Memory.read_cons] at this
      exact absurd this h.2.1
    | cons c' m' =>
      obtain ⟨k, u⟩ := c'
      rw [Memory.wfFrom_cons] at h h'
      have hjk : j = k := by
        by_contra hne
        rcases Nat.lt_or_gt_of_ne hne with hlt | hgt
        · have := e j
          simp only [Memory.read_cons, if_true, if_neg hne] at this
          rw [Memory.read_below h'.2.2 (by omega)] at this
          exact h.2.1 this
        · have := e k
          simp only [Memory.read_cons, if_true, if_neg (Ne.symm hne)] at this
          rw [Memory.read_below h.2.2 (by omega)] at this
          exact h'.2.1 this.symm
      subst hjk
      have hv : v = u := by simpa [Memory.read_cons] using e j
      subst hv
      rw [ih m' (j + 1) h.2.2 h'.2.2]
      intro i
      by_cases hi : i = j
      · subst hi
        rw [Memory.read_below h.2.2 (by omega), Memory.read_below h'.2.2 (by omega)]
      · simpa [Memory.read_cons, hi] using e i

theorem Memory.within_iff {n : Nat} {m : Memory w} :
    m.within n = true ↔ ∀ c ∈ m, c.1 < n := by simp [Memory.within]

theorem Memory.mem_write {m : Memory w} {i : Nat} {v : BitVec w} {c : Nat × BitVec w}
    (h : c ∈ m.write i v) : c = (i, v) ∨ c ∈ m := by
  induction m with
  | nil =>
    simp only [Memory.write] at h
    split at h <;> simp_all
  | cons d m ih =>
    simp only [Memory.write] at h
    split at h
    · split at h
      · exact .inr h
      · simpa using h
    · split at h
      · split at h
        · exact .inr (List.mem_cons_of_mem _ h)
        · rcases List.mem_cons.mp h with rfl | h
          · exact .inl rfl
          · exact .inr (List.mem_cons_of_mem _ h)
      · rcases List.mem_cons.mp h with rfl | h
        · exact .inr List.mem_cons_self
        · exact (ih h).imp id (List.mem_cons_of_mem _)

theorem Memory.within_write {n : Nat} {m : Memory w} (h : m.within n = true) {i : Nat}
    (v : BitVec w) (hi : i < n) : (m.write i v).within n = true := by
  rw [Memory.within_iff] at h ⊢
  intro c hc
  rcases Memory.mem_write hc with rfl | hc
  · exact hi
  · exact h c hc

theorem Memory.within_ofListFrom {n : Nat} (xs : List (BitVec w)) (i : Nat)
    (h : i + xs.length ≤ n) : (Memory.ofListFrom i xs).within n = true := by
  induction xs generalizing i with
  | nil => rfl
  | cons v xs ih =>
    simp only [List.length_cons] at h
    simp only [Memory.ofListFrom]
    split
    · exact ih (i + 1) (by omega)
    · simp only [Memory.within, List.all_cons, Bool.and_eq_true, decide_eq_true_eq]
      exact ⟨by omega, ih (i + 1) (by omega)⟩

/-- What an array written whole reads as. -/
theorem Memory.read_ofListFrom (xs : List (BitVec w)) (i j : Nat) :
    (Memory.ofListFrom i xs).read j = if i ≤ j then xs.getD (j - i) 0#w else 0#w := by
  induction xs generalizing i with
  | nil => simp [Memory.ofListFrom]
  | cons v xs ih =>
    have step : ∀ u : BitVec w, (if j = i then u else (Memory.ofListFrom (i + 1) xs).read j) =
        if i ≤ j then (u :: xs).getD (j - i) 0#w else 0#w := by
      intro u
      rcases Nat.lt_trichotomy j i with h | h | h
      · simp [ih, show ¬ j = i by omega, show ¬ i ≤ j by omega, show ¬ i + 1 ≤ j by omega]
      · simp [h]
      · obtain ⟨k, rfl⟩ : ∃ k, j = i + 1 + k := ⟨j - (i + 1), by omega⟩
        rw [if_neg (by omega), ih, if_pos (by omega), if_pos (by omega),
          show i + 1 + k - i = k + 1 by omega, show i + 1 + k - (i + 1) = k by omega]
        simp
    rw [← step v]
    simp only [Memory.ofListFrom]
    split
    · rename_i hv
      subst hv
      split
      · rename_i hj
        rw [ih, if_neg (by omega)]
      · rfl
    · rfl

@[simp] theorem Memory.length_take (m : Memory w) (n : Nat) : (m.take n).length = n := by
  simp [Memory.take]

/-- An array of `n` elements written whole, read back whole. -/
theorem Memory.take_ofListFrom (xs : List (BitVec w)) :
    (Memory.ofListFrom 0 xs).take xs.length = xs := by
  apply List.ext_getElem
  · simp
  · intro i h₁ h₂
    simp [Memory.take, Memory.read_ofListFrom, h₂]

end Sys2Proof.Machine
end

