-- ==== Sys2Proof/Laws/State.lean ====
section
/-! SUPPORT. One lemma per field for each update of State that has a name. -/

namespace Sys2Proof.Machine

variable (s : State)

/-! ## `count`: `count(C)` (00_scope R11) -/

@[simp] theorem State.count_crcAcc (c : Counter) : (s.count c).crcAcc = s.crcAcc := rfl
@[simp] theorem State.count_pState (c : Counter) : (s.count c).pState = s.pState := rfl
@[simp] theorem State.count_hdr (c : Counter) : (s.count c).hdr = s.hdr := rfl
@[simp] theorem State.count_hdrCnt (c : Counter) : (s.count c).hdrCnt = s.hdrCnt := rfl
@[simp] theorem State.count_pay (c : Counter) : (s.count c).pay = s.pay := rfl
@[simp] theorem State.count_payCnt (c : Counter) : (s.count c).payCnt = s.payCnt := rfl
@[simp] theorem State.count_pLen (c : Counter) : (s.count c).pLen = s.pLen := rfl
@[simp] theorem State.count_crcLo (c : Counter) : (s.count c).crcLo = s.crcLo := rfl
@[simp] theorem State.count_pCrc (c : Counter) : (s.count c).pCrc = s.pCrc := rfl
@[simp] theorem State.count_posRun (c : Counter) : (s.count c).posRun = s.posRun := rfl
@[simp] theorem State.count_negRun (c : Counter) : (s.count c).negRun = s.negRun := rfl
@[simp] theorem State.count_latched (c : Counter) : (s.count c).latched = s.latched := rfl
@[simp] theorem State.count_vadThreshold (c : Counter) : (s.count c).vadThreshold = s.vadThreshold := rfl
@[simp] theorem State.count_vadPosCount (c : Counter) : (s.count c).vadPosCount = s.vadPosCount := rfl
@[simp] theorem State.count_vadNegCount (c : Counter) : (s.count c).vadNegCount = s.vadNegCount := rfl
@[simp] theorem State.count_chunkSamples (c : Counter) : (s.count c).chunkSamples = s.chunkSamples := rfl
@[simp] theorem State.count_ring (c : Counter) : (s.count c).ring = s.ring := rfl
@[simp] theorem State.count_wr (c : Counter) : (s.count c).wr = s.wr := rfl
@[simp] theorem State.count_rd (c : Counter) : (s.count c).rd = s.rd := rfl
@[simp] theorem State.count_obuf0 (c : Counter) : (s.count c).obuf0 = s.obuf0 := rfl
@[simp] theorem State.count_obuf1 (c : Counter) : (s.count c).obuf1 = s.obuf1 := rfl
@[simp] theorem State.count_active (c : Counter) : (s.count c).active = s.active := rfl
@[simp] theorem State.count_stats (c : Counter) : (s.count c).stats = s.stats.set c (sat 32 ((s.stats.get c).toNat + 1)) := rfl
@[simp] theorem State.count_cfg (c : Counter) : (s.count c).cfg = s.cfg := rfl
@[simp] theorem State.count_pending (c : Counter) : (s.count c).pending = s.pending := rfl
@[simp] theorem State.count_resp (c : Counter) : (s.count c).resp = s.resp := rfl

/-! ## `storeHdr`: a header byte stored (42_rx_parser R154) -/

@[simp] theorem State.storeHdr_crcAcc (b : Byte) : (s.storeHdr b).crcAcc = s.crcAcc := rfl
@[simp] theorem State.storeHdr_pState (b : Byte) : (s.storeHdr b).pState = s.pState := rfl
@[simp] theorem State.storeHdr_hdr (b : Byte) : (s.storeHdr b).hdr = s.hdr.write s.hdrCnt b := rfl
@[simp] theorem State.storeHdr_hdrCnt (b : Byte) : (s.storeHdr b).hdrCnt = s.hdrCnt + 1 := rfl
@[simp] theorem State.storeHdr_pay (b : Byte) : (s.storeHdr b).pay = s.pay := rfl
@[simp] theorem State.storeHdr_payCnt (b : Byte) : (s.storeHdr b).payCnt = s.payCnt := rfl
@[simp] theorem State.storeHdr_pLen (b : Byte) : (s.storeHdr b).pLen = s.pLen := rfl
@[simp] theorem State.storeHdr_crcLo (b : Byte) : (s.storeHdr b).crcLo = s.crcLo := rfl
@[simp] theorem State.storeHdr_pCrc (b : Byte) : (s.storeHdr b).pCrc = s.pCrc := rfl
@[simp] theorem State.storeHdr_posRun (b : Byte) : (s.storeHdr b).posRun = s.posRun := rfl
@[simp] theorem State.storeHdr_negRun (b : Byte) : (s.storeHdr b).negRun = s.negRun := rfl
@[simp] theorem State.storeHdr_latched (b : Byte) : (s.storeHdr b).latched = s.latched := rfl
@[simp] theorem State.storeHdr_vadThreshold (b : Byte) : (s.storeHdr b).vadThreshold = s.vadThreshold := rfl
@[simp] theorem State.storeHdr_vadPosCount (b : Byte) : (s.storeHdr b).vadPosCount = s.vadPosCount := rfl
@[simp] theorem State.storeHdr_vadNegCount (b : Byte) : (s.storeHdr b).vadNegCount = s.vadNegCount := rfl
@[simp] theorem State.storeHdr_chunkSamples (b : Byte) : (s.storeHdr b).chunkSamples = s.chunkSamples := rfl
@[simp] theorem State.storeHdr_ring (b : Byte) : (s.storeHdr b).ring = s.ring := rfl
@[simp] theorem State.storeHdr_wr (b : Byte) : (s.storeHdr b).wr = s.wr := rfl
@[simp] theorem State.storeHdr_rd (b : Byte) : (s.storeHdr b).rd = s.rd := rfl
@[simp] theorem State.storeHdr_obuf0 (b : Byte) : (s.storeHdr b).obuf0 = s.obuf0 := rfl
@[simp] theorem State.storeHdr_obuf1 (b : Byte) : (s.storeHdr b).obuf1 = s.obuf1 := rfl
@[simp] theorem State.storeHdr_active (b : Byte) : (s.storeHdr b).active = s.active := rfl
@[simp] theorem State.storeHdr_stats (b : Byte) : (s.storeHdr b).stats = s.stats := rfl
@[simp] theorem State.storeHdr_cfg (b : Byte) : (s.storeHdr b).cfg = s.cfg := rfl
@[simp] theorem State.storeHdr_pending (b : Byte) : (s.storeHdr b).pending = s.pending := rfl
@[simp] theorem State.storeHdr_resp (b : Byte) : (s.storeHdr b).resp = s.resp := rfl

/-! ## `storePay`: a payload byte stored (42_rx_parser R155) -/

@[simp] theorem State.storePay_crcAcc (b : Byte) : (s.storePay b).crcAcc = s.crcAcc := rfl
@[simp] theorem State.storePay_pState (b : Byte) : (s.storePay b).pState = s.pState := rfl
@[simp] theorem State.storePay_hdr (b : Byte) : (s.storePay b).hdr = s.hdr := rfl
@[simp] theorem State.storePay_hdrCnt (b : Byte) : (s.storePay b).hdrCnt = s.hdrCnt := rfl
@[simp] theorem State.storePay_pay (b : Byte) : (s.storePay b).pay = s.pay.write s.payCnt b := rfl
@[simp] theorem State.storePay_payCnt (b : Byte) : (s.storePay b).payCnt = s.payCnt + 1 := rfl
@[simp] theorem State.storePay_pLen (b : Byte) : (s.storePay b).pLen = s.pLen := rfl
@[simp] theorem State.storePay_crcLo (b : Byte) : (s.storePay b).crcLo = s.crcLo := rfl
@[simp] theorem State.storePay_pCrc (b : Byte) : (s.storePay b).pCrc = s.pCrc := rfl
@[simp] theorem State.storePay_posRun (b : Byte) : (s.storePay b).posRun = s.posRun := rfl
@[simp] theorem State.storePay_negRun (b : Byte) : (s.storePay b).negRun = s.negRun := rfl
@[simp] theorem State.storePay_latched (b : Byte) : (s.storePay b).latched = s.latched := rfl
@[simp] theorem State.storePay_vadThreshold (b : Byte) : (s.storePay b).vadThreshold = s.vadThreshold := rfl
@[simp] theorem State.storePay_vadPosCount (b : Byte) : (s.storePay b).vadPosCount = s.vadPosCount := rfl
@[simp] theorem State.storePay_vadNegCount (b : Byte) : (s.storePay b).vadNegCount = s.vadNegCount := rfl
@[simp] theorem State.storePay_chunkSamples (b : Byte) : (s.storePay b).chunkSamples = s.chunkSamples := rfl
@[simp] theorem State.storePay_ring (b : Byte) : (s.storePay b).ring = s.ring := rfl
@[simp] theorem State.storePay_wr (b : Byte) : (s.storePay b).wr = s.wr := rfl
@[simp] theorem State.storePay_rd (b : Byte) : (s.storePay b).rd = s.rd := rfl
@[simp] theorem State.storePay_obuf0 (b : Byte) : (s.storePay b).obuf0 = s.obuf0 := rfl
@[simp] theorem State.storePay_obuf1 (b : Byte) : (s.storePay b).obuf1 = s.obuf1 := rfl
@[simp] theorem State.storePay_active (b : Byte) : (s.storePay b).active = s.active := rfl
@[simp] theorem State.storePay_stats (b : Byte) : (s.storePay b).stats = s.stats := rfl
@[simp] theorem State.storePay_cfg (b : Byte) : (s.storePay b).cfg = s.cfg := rfl
@[simp] theorem State.storePay_pending (b : Byte) : (s.storePay b).pending = s.pending := rfl
@[simp] theorem State.storePay_resp (b : Byte) : (s.storePay b).resp = s.resp := rfl

/-! ## `storeRing`: a sample stored (44_audio_ring R202) -/

@[simp] theorem State.storeRing_crcAcc (v : Sample) : (s.storeRing v).crcAcc = s.crcAcc := rfl
@[simp] theorem State.storeRing_pState (v : Sample) : (s.storeRing v).pState = s.pState := rfl
@[simp] theorem State.storeRing_hdr (v : Sample) : (s.storeRing v).hdr = s.hdr := rfl
@[simp] theorem State.storeRing_hdrCnt (v : Sample) : (s.storeRing v).hdrCnt = s.hdrCnt := rfl
@[simp] theorem State.storeRing_pay (v : Sample) : (s.storeRing v).pay = s.pay := rfl
@[simp] theorem State.storeRing_payCnt (v : Sample) : (s.storeRing v).payCnt = s.payCnt := rfl
@[simp] theorem State.storeRing_pLen (v : Sample) : (s.storeRing v).pLen = s.pLen := rfl
@[simp] theorem State.storeRing_crcLo (v : Sample) : (s.storeRing v).crcLo = s.crcLo := rfl
@[simp] theorem State.storeRing_pCrc (v : Sample) : (s.storeRing v).pCrc = s.pCrc := rfl
@[simp] theorem State.storeRing_posRun (v : Sample) : (s.storeRing v).posRun = s.posRun := rfl
@[simp] theorem State.storeRing_negRun (v : Sample) : (s.storeRing v).negRun = s.negRun := rfl
@[simp] theorem State.storeRing_latched (v : Sample) : (s.storeRing v).latched = s.latched := rfl
@[simp] theorem State.storeRing_vadThreshold (v : Sample) : (s.storeRing v).vadThreshold = s.vadThreshold := rfl
@[simp] theorem State.storeRing_vadPosCount (v : Sample) : (s.storeRing v).vadPosCount = s.vadPosCount := rfl
@[simp] theorem State.storeRing_vadNegCount (v : Sample) : (s.storeRing v).vadNegCount = s.vadNegCount := rfl
@[simp] theorem State.storeRing_chunkSamples (v : Sample) : (s.storeRing v).chunkSamples = s.chunkSamples := rfl
@[simp] theorem State.storeRing_ring (v : Sample) : (s.storeRing v).ring = s.ring.write s.wr v := rfl
@[simp] theorem State.storeRing_wr (v : Sample) : (s.storeRing v).wr = ringNext s.cfg s.wr := rfl
@[simp] theorem State.storeRing_rd (v : Sample) : (s.storeRing v).rd = s.rd := rfl
@[simp] theorem State.storeRing_obuf0 (v : Sample) : (s.storeRing v).obuf0 = s.obuf0 := rfl
@[simp] theorem State.storeRing_obuf1 (v : Sample) : (s.storeRing v).obuf1 = s.obuf1 := rfl
@[simp] theorem State.storeRing_active (v : Sample) : (s.storeRing v).active = s.active := rfl
@[simp] theorem State.storeRing_stats (v : Sample) : (s.storeRing v).stats = s.stats := rfl
@[simp] theorem State.storeRing_cfg (v : Sample) : (s.storeRing v).cfg = s.cfg := rfl
@[simp] theorem State.storeRing_pending (v : Sample) : (s.storeRing v).pending = s.pending := rfl
@[simp] theorem State.storeRing_resp (v : Sample) : (s.storeRing v).resp = s.resp := rfl

/-! ## `softReset`: SOFT_RESET (45_control R235) -/

@[simp] theorem State.softReset_crcAcc : (s.softReset).crcAcc = s.crcAcc := rfl
@[simp] theorem State.softReset_pState : (s.softReset).pState = .waitSof0 := rfl
@[simp] theorem State.softReset_hdr : (s.softReset).hdr = s.hdr := rfl
@[simp] theorem State.softReset_hdrCnt : (s.softReset).hdrCnt = 0 := rfl
@[simp] theorem State.softReset_pay : (s.softReset).pay = s.pay := rfl
@[simp] theorem State.softReset_payCnt : (s.softReset).payCnt = 0 := rfl
@[simp] theorem State.softReset_pLen : (s.softReset).pLen = 0 := rfl
@[simp] theorem State.softReset_crcLo : (s.softReset).crcLo = 0 := rfl
@[simp] theorem State.softReset_pCrc : (s.softReset).pCrc = 0xFFFF := rfl
@[simp] theorem State.softReset_posRun : (s.softReset).posRun = 0 := rfl
@[simp] theorem State.softReset_negRun : (s.softReset).negRun = 0 := rfl
@[simp] theorem State.softReset_latched : (s.softReset).latched = false := rfl
@[simp] theorem State.softReset_vadThreshold : (s.softReset).vadThreshold = s.cfg.defVadThreshold := rfl
@[simp] theorem State.softReset_vadPosCount : (s.softReset).vadPosCount = s.cfg.defVadPosCount := rfl
@[simp] theorem State.softReset_vadNegCount : (s.softReset).vadNegCount = s.cfg.defVadNegCount := rfl
@[simp] theorem State.softReset_chunkSamples : (s.softReset).chunkSamples = s.cfg.defChunkSamples := rfl
@[simp] theorem State.softReset_ring : (s.softReset).ring = s.ring := rfl
@[simp] theorem State.softReset_wr : (s.softReset).wr = s.wr := rfl
@[simp] theorem State.softReset_rd : (s.softReset).rd = s.rd := rfl
@[simp] theorem State.softReset_obuf0 : (s.softReset).obuf0 = s.obuf0 := rfl
@[simp] theorem State.softReset_obuf1 : (s.softReset).obuf1 = s.obuf1 := rfl
@[simp] theorem State.softReset_active : (s.softReset).active = s.active := rfl
@[simp] theorem State.softReset_stats : (s.softReset).stats = s.stats := rfl
@[simp] theorem State.softReset_cfg : (s.softReset).cfg = s.cfg := rfl
@[simp] theorem State.softReset_pending : (s.softReset).pending = s.pending := rfl
@[simp] theorem State.softReset_resp : (s.softReset).resp = s.resp := rfl

/-! ## `okWith`: a successful response -/

@[simp] theorem State.okWith_crcAcc (v : Word) (d : Data) : (s.okWith v d).crcAcc = s.crcAcc := rfl
@[simp] theorem State.okWith_pState (v : Word) (d : Data) : (s.okWith v d).pState = s.pState := rfl
@[simp] theorem State.okWith_hdr (v : Word) (d : Data) : (s.okWith v d).hdr = s.hdr := rfl
@[simp] theorem State.okWith_hdrCnt (v : Word) (d : Data) : (s.okWith v d).hdrCnt = s.hdrCnt := rfl
@[simp] theorem State.okWith_pay (v : Word) (d : Data) : (s.okWith v d).pay = s.pay := rfl
@[simp] theorem State.okWith_payCnt (v : Word) (d : Data) : (s.okWith v d).payCnt = s.payCnt := rfl
@[simp] theorem State.okWith_pLen (v : Word) (d : Data) : (s.okWith v d).pLen = s.pLen := rfl
@[simp] theorem State.okWith_crcLo (v : Word) (d : Data) : (s.okWith v d).crcLo = s.crcLo := rfl
@[simp] theorem State.okWith_pCrc (v : Word) (d : Data) : (s.okWith v d).pCrc = s.pCrc := rfl
@[simp] theorem State.okWith_posRun (v : Word) (d : Data) : (s.okWith v d).posRun = s.posRun := rfl
@[simp] theorem State.okWith_negRun (v : Word) (d : Data) : (s.okWith v d).negRun = s.negRun := rfl
@[simp] theorem State.okWith_latched (v : Word) (d : Data) : (s.okWith v d).latched = s.latched := rfl
@[simp] theorem State.okWith_vadThreshold (v : Word) (d : Data) : (s.okWith v d).vadThreshold = s.vadThreshold := rfl
@[simp] theorem State.okWith_vadPosCount (v : Word) (d : Data) : (s.okWith v d).vadPosCount = s.vadPosCount := rfl
@[simp] theorem State.okWith_vadNegCount (v : Word) (d : Data) : (s.okWith v d).vadNegCount = s.vadNegCount := rfl
@[simp] theorem State.okWith_chunkSamples (v : Word) (d : Data) : (s.okWith v d).chunkSamples = s.chunkSamples := rfl
@[simp] theorem State.okWith_ring (v : Word) (d : Data) : (s.okWith v d).ring = s.ring := rfl
@[simp] theorem State.okWith_wr (v : Word) (d : Data) : (s.okWith v d).wr = s.wr := rfl
@[simp] theorem State.okWith_rd (v : Word) (d : Data) : (s.okWith v d).rd = s.rd := rfl
@[simp] theorem State.okWith_obuf0 (v : Word) (d : Data) : (s.okWith v d).obuf0 = s.obuf0 := rfl
@[simp] theorem State.okWith_obuf1 (v : Word) (d : Data) : (s.okWith v d).obuf1 = s.obuf1 := rfl
@[simp] theorem State.okWith_active (v : Word) (d : Data) : (s.okWith v d).active = s.active := rfl
@[simp] theorem State.okWith_stats (v : Word) (d : Data) : (s.okWith v d).stats = s.stats := rfl
@[simp] theorem State.okWith_cfg (v : Word) (d : Data) : (s.okWith v d).cfg = s.cfg := rfl
@[simp] theorem State.okWith_pending (v : Word) (d : Data) : (s.okWith v d).pending = s.pending := rfl
@[simp] theorem State.okWith_resp (v : Word) (d : Data) : (s.okWith v d).resp = some ⟨.ok, v, d, .none⟩ := rfl

/-! ## `failedWith`: a failed response -/

@[simp] theorem State.failedWith_crcAcc (e : Status) : (s.failedWith e).crcAcc = s.crcAcc := rfl
@[simp] theorem State.failedWith_pState (e : Status) : (s.failedWith e).pState = s.pState := rfl
@[simp] theorem State.failedWith_hdr (e : Status) : (s.failedWith e).hdr = s.hdr := rfl
@[simp] theorem State.failedWith_hdrCnt (e : Status) : (s.failedWith e).hdrCnt = s.hdrCnt := rfl
@[simp] theorem State.failedWith_pay (e : Status) : (s.failedWith e).pay = s.pay := rfl
@[simp] theorem State.failedWith_payCnt (e : Status) : (s.failedWith e).payCnt = s.payCnt := rfl
@[simp] theorem State.failedWith_pLen (e : Status) : (s.failedWith e).pLen = s.pLen := rfl
@[simp] theorem State.failedWith_crcLo (e : Status) : (s.failedWith e).crcLo = s.crcLo := rfl
@[simp] theorem State.failedWith_pCrc (e : Status) : (s.failedWith e).pCrc = s.pCrc := rfl
@[simp] theorem State.failedWith_posRun (e : Status) : (s.failedWith e).posRun = s.posRun := rfl
@[simp] theorem State.failedWith_negRun (e : Status) : (s.failedWith e).negRun = s.negRun := rfl
@[simp] theorem State.failedWith_latched (e : Status) : (s.failedWith e).latched = s.latched := rfl
@[simp] theorem State.failedWith_vadThreshold (e : Status) : (s.failedWith e).vadThreshold = s.vadThreshold := rfl
@[simp] theorem State.failedWith_vadPosCount (e : Status) : (s.failedWith e).vadPosCount = s.vadPosCount := rfl
@[simp] theorem State.failedWith_vadNegCount (e : Status) : (s.failedWith e).vadNegCount = s.vadNegCount := rfl
@[simp] theorem State.failedWith_chunkSamples (e : Status) : (s.failedWith e).chunkSamples = s.chunkSamples := rfl
@[simp] theorem State.failedWith_ring (e : Status) : (s.failedWith e).ring = s.ring := rfl
@[simp] theorem State.failedWith_wr (e : Status) : (s.failedWith e).wr = s.wr := rfl
@[simp] theorem State.failedWith_rd (e : Status) : (s.failedWith e).rd = s.rd := rfl
@[simp] theorem State.failedWith_obuf0 (e : Status) : (s.failedWith e).obuf0 = s.obuf0 := rfl
@[simp] theorem State.failedWith_obuf1 (e : Status) : (s.failedWith e).obuf1 = s.obuf1 := rfl
@[simp] theorem State.failedWith_active (e : Status) : (s.failedWith e).active = s.active := rfl
@[simp] theorem State.failedWith_stats (e : Status) : (s.failedWith e).stats = s.stats := rfl
@[simp] theorem State.failedWith_cfg (e : Status) : (s.failedWith e).cfg = s.cfg := rfl
@[simp] theorem State.failedWith_pending (e : Status) : (s.failedWith e).pending = s.pending := rfl
@[simp] theorem State.failedWith_resp (e : Status) : (s.failedWith e).resp = some ⟨e, 0, .none, .none⟩ := rfl

/-! ## Counters -/

@[simp] theorem Stats.get_set_self (t : Stats) (c : Counter) (v : Word) : (t.set c v).get c = v := by
  cases c <;> rfl

@[simp] theorem Stats.get_set_ne (t : Stats) {c d : Counter} (v : Word) (h : d ≠ c) :
    (t.set c v).get d = t.get d := by
  cases c <;> cases d <;> first | rfl | exact absurd rfl h

@[simp] theorem Stats.set_set (t : Stats) (c : Counter) (v u : Word) :
    (t.set c v).set c u = t.set c u := by cases c <;> rfl

@[simp] theorem Stats.set_get (t : Stats) (c : Counter) : t.set c (t.get c) = t := by
  cases c <;> rfl

@[simp] theorem Stats.get_zero (c : Counter) : (Stats.mk 0 0 0 0 0 0 0).get c = 0 := by cases c <;> rfl

/-- Counters are equal when they read equal. -/
theorem Stats.ext_get {t u : Stats} (h : ∀ c, t.get c = u.get c) : t = u := by
  obtain ⟨a, b, c, d, e, f, g⟩ := t
  obtain ⟨a', b', c', d', e', f', g'⟩ := u
  simp only [Stats.mk.injEq]
  exact ⟨h .bytesRx, h .framesOk, h .framesBadCrc, h .framingErr, h .framesSent, h .overflow, h .underrun⟩

/-! ## Outcomes -/

@[simp] theorem State.respond_eq (v : Word) (d : Data) : s.respond v d = .next (s.okWith v d) := rfl

@[simp] theorem State.fail_eq (e : Status) : s.fail e = .next (s.failedWith e) := rfl

theorem State.respondEvent_eq (e : Event) (v : Word) (d : Data) :
    s.respondEvent e v d = .next { s with resp := some ⟨.ok, v, d, e⟩ } := rfl

@[simp] theorem mapNext_next (f : State → State) (t : State) : mapNext f (.next t) = .next (f t) := rfl

end Sys2Proof.Machine
end

