-- ==== Sys2Proof/Laws/Operands.lean ====
section
/-! SUPPORT. The operand forms: an operation whose data channel is of the wrong kind fails ILLEGAL_CMD
(30_encoding R92 c), and how the register writes can end. -/

namespace Sys2Proof.Machine

@[simp] theorem withNone_none (s : State) (k : Result) : withNone .none s k = k := rfl

@[simp] theorem withBytes_bytes (bs : List Byte) (s : State) (k : List Byte → Result) :
    withBytes (.bytes bs) s k = k bs := rfl

@[simp] theorem withSamples_samples (xs : List Sample) (s : State) (k : List Sample → Result) :
    withSamples (.samples xs) s k = k xs := rfl

theorem withNone_illegal {d : Data} (h : d.kind ≠ .none) (s : State) (k : Result) :
    withNone d s k = s.fail .illegalCmd := by
  cases d
  · exact absurd rfl h
  · rfl
  · rfl

theorem withBytes_illegal {d : Data} (h : d.kind ≠ .bytes) (s : State) (k : List Byte → Result) :
    withBytes d s k = s.fail .illegalCmd := by
  cases d
  · rfl
  · exact absurd rfl h
  · rfl

theorem withSamples_illegal {d : Data} (h : d.kind ≠ .samples) (s : State) (k : List Sample → Result) :
    withSamples d s k = s.fail .illegalCmd := by
  cases d
  · rfl
  · rfl
  · exact absurd rfl h

/-- An ill-formed operation, whichever it is, fails ILLEGAL_CMD. -/
theorem exec_illformed {i : Instr} (h : ¬ i.WellFormed) (s : State) :
    exec i s = .next (s.failedWith .illegalCmd) := by
  cases i <;>
    first
    | exact withNone_illegal h s _
    | exact withBytes_illegal h s _
    | exact withSamples_illegal h s _

/-- A write to a register either fails or changes one of the four configuration registers (R231, R232). -/
theorem State.setCfgReg_cases {s t : State} {x : BitVec 4} {v : Half} (h : s.setCfgReg x v = some t) :
    (x = 0 ∧ t = { s with vadThreshold := v }) ∨ (x = 1 ∧ t = { s with vadPosCount := v }) ∨
      (x = 2 ∧ t = { s with vadNegCount := v }) ∨ (x = 3 ∧ t = { s with chunkSamples := v }) := by
  unfold State.setCfgReg at h
  have hx : ∀ k : BitVec 4, x.toNat = k.toNat → x = k := fun _ => BitVec.eq_of_toNat_eq
  split at h
  · exact .inl ⟨hx 0 ‹_›, (Option.some.inj h).symm⟩
  · exact .inr (.inl ⟨hx 1 ‹_›, (Option.some.inj h).symm⟩)
  · exact .inr (.inr (.inl ⟨hx 2 ‹_›, (Option.some.inj h).symm⟩))
  · exact .inr (.inr (.inr ⟨hx 3 ‹_›, (Option.some.inj h).symm⟩))
  · cases h

end Sys2Proof.Machine
end

