-- ==== Sys2Proof/Laws/Ops.lean ====
section
/-! SUPPORT. What each shared operation can do, said once: saturation, the ring's predicates, the push
loop and the pull loop (44_audio_ring R201 to R203), and the output buffers. -/

namespace Sys2Proof.Machine

/-! ## Saturation -/

theorem sat_toNat (w n : Nat) : (sat w n).toNat = min n (2 ^ w - 1) := by
  have := Nat.two_pow_pos w
  simp only [sat, BitVec.toNat_ofNat]
  exact Nat.mod_eq_of_lt (by omega)

@[simp] theorem sat_self {w : Nat} (v : BitVec w) : sat w v.toNat = v := by
  apply BitVec.eq_of_toNat_eq
  have := v.isLt
  rw [sat_toNat]
  omega

/-- Counting on from a saturated sum is saturating the whole sum. -/
theorem sat_add (w n k : Nat) : sat w ((sat w n).toNat + k) = sat w (n + k) := by
  apply BitVec.eq_of_toNat_eq
  simp only [sat_toNat]
  omega

/-- A saturating count never goes down. -/
theorem le_sat_add {w : Nat} (v : BitVec w) (k : Nat) : v ≤ sat w (v.toNat + k) := by
  have := v.isLt
  rw [BitVec.le_def, sat_toNat]
  omega

/-! ## Ring predicates -/

theorem add_mod_cases {c x y : Nat} (hx : x < c) (hy : y ≤ c) :
    (x + y) % c = if x + y < c then x + y else x + y - c := by
  split
  · exact Nat.mod_eq_of_lt ‹_›
  · rw [Nat.mod_eq_sub_mod (by omega)]
    exact Nat.mod_eq_of_lt (by omega)

theorem State.occ_eq {s : State} (h : s.RingInv) :
    s.occ = if s.rd ≤ s.wr then s.wr - s.rd else s.wr + s.cfg.ringCap - s.rd := by
  obtain ⟨hw, hr⟩ := h
  unfold State.occ
  split
  · rw [Int.emod_eq_of_lt (by omega) (by omega)]
    omega
  · rw [← Int.add_emod_right, Int.emod_eq_of_lt (by omega) (by omega)]
    omega

/-- "At most `RING_CAP − 1` samples can be held" (R201). -/
theorem State.occ_lt {s : State} (h : s.RingInv) : s.occ < s.cfg.ringCap := by
  rw [State.occ_eq h]
  obtain ⟨hw, hr⟩ := h
  split <;> omega

/-- "`occ = RING_CAP − 1` exactly when it is full" (R201). -/
theorem State.ringFull_iff {s : State} (h : s.RingInv) :
    s.ringFull = true ↔ s.occ = s.cfg.ringCap - 1 := by
  rw [State.occ_eq h]
  obtain ⟨hw, hr⟩ := h
  simp only [State.ringFull, ringNext, beq_iff_eq]
  rw [add_mod_cases hw (by omega)]
  split <;> split <;> omega

/-- "`occ = 0` exactly when the ring is empty" (R201). -/
theorem State.ringEmpty_iff {s : State} (h : s.RingInv) : s.ringEmpty = true ↔ s.occ = 0 := by
  rw [State.occ_eq h]
  obtain ⟨hw, hr⟩ := h
  simp only [State.ringEmpty, beq_iff_eq]
  split <;> omega

/-- One step of the write cursor raises the occupancy by one, unless the ring is full. -/
theorem occ_next_wr {c w r : Nat} (hw : w < c) (hr : r < c)
    (hf : ¬ (if r ≤ w then w - r else w + c - r) = c - 1) :
    (if r ≤ (w + 1) % c then (w + 1) % c - r else (w + 1) % c + c - r) =
      (if r ≤ w then w - r else w + c - r) + 1 := by
  rw [add_mod_cases hw (by omega)]
  split_ifs at hf ⊢ <;> omega

/-- One step of the read cursor lowers the occupancy by one, unless the ring is empty. -/
theorem occ_next_rd {c w r : Nat} (hw : w < c) (hr : r < c)
    (he : 0 < if r ≤ w then w - r else w + c - r) :
    (if (r + 1) % c ≤ w then w - (r + 1) % c else w + c - (r + 1) % c) =
      (if r ≤ w then w - r else w + c - r) - 1 := by
  rw [add_mod_cases hr (by omega)]
  split_ifs at he ⊢ <;> omega

theorem State.storeRing_inv {s : State} (h : s.RingInv) (v : Sample) : (s.storeRing v).RingInv :=
  ⟨Nat.mod_lt _ (Nat.lt_of_le_of_lt (Nat.zero_le _) h.1), h.2⟩

theorem State.storeRing_occ {s : State} (h : s.RingInv) (v : Sample) (hf : s.ringFull = false) :
    (s.storeRing v).occ = s.occ + 1 := by
  have hf' : ¬ s.occ = s.cfg.ringCap - 1 := by
    rw [← State.ringFull_iff h, hf]
    exact Bool.false_ne_true
  rw [State.occ_eq (State.storeRing_inv h v), State.occ_eq h]
  rw [State.occ_eq h] at hf'
  exact occ_next_wr h.1 h.2 hf'

theorem ring_slot_ne {c x i j : Nat} (hx : x < c) (hi : i < c) (hj : j < c) (h : i ≠ j) :
    (x + i) % c ≠ (x + j) % c := by
  rw [add_mod_cases hx (by omega), add_mod_cases hx (by omega)]
  split <;> split <;> omega

/-! ## The push loop -/

/-- How many of `n` samples a push stores: as many as there is room for (R202). -/
def State.room (s : State) (n : Nat) : Nat := min n (s.cfg.ringCap - 1 - s.occ)

/-- What RING_PUSH's loop does (R202): the samples there is room for go to the slots from the write
cursor on, in order, each of the rest counts one overflow, and nothing else changes. -/
theorem State.push_spec (xs : List Sample) : ∀ {s : State}, s.RingInv → s.ring.wf = true →
    s.ring.within s.cfg.ringCap = true →
    s.push xs = { s with
        ring := (s.push xs).ring
        wr := (s.wr + s.room xs.length) % s.cfg.ringCap
        stats := s.stats.set .overflow
          (sat 32 (s.stats.overflow.toNat + (xs.length - s.room xs.length))) } ∧
    (s.push xs).ring.wf = true ∧ (s.push xs).ring.within s.cfg.ringCap = true ∧
    (∀ k, k < s.room xs.length →
      (s.push xs).ring.read ((s.wr + k) % s.cfg.ringCap) = xs.getD k 0#16) ∧
    (∀ a, (∀ k, k < s.room xs.length → a ≠ (s.wr + k) % s.cfg.ringCap) →
      (s.push xs).ring.read a = s.ring.read a) := by
  induction xs with
  | nil =>
    intro s h hwf hin
    have : s.room 0 = 0 := by simp [State.room]
    have hs : s.stats.set .overflow (sat 32 s.stats.overflow.toNat) = s.stats := by
      rw [sat_self]
      exact Stats.set_get s.stats .overflow
    simp only [State.push, List.length_nil, this, Nat.add_zero, Nat.sub_zero,
      Nat.mod_eq_of_lt h.1]
    exact ⟨by rw [hs], hwf, hin, fun k hk => absurd hk (Nat.not_lt_zero k), fun _ _ => trivial⟩
  | cons v vs ih =>
    intro s h hwf hin
    by_cases hf : s.ringFull = true
    · have hocc := (State.ringFull_iff h).mp hf
      have hroom : ∀ n, s.room n = 0 := fun n => by simp [State.room, hocc]
      have hpush : s.push (v :: vs) = (s.count .overflow).push vs := by
        simp [State.push, State.pushOne, hf]
      obtain ⟨h1, h2, h3, _, h5⟩ := ih (s := s.count .overflow) h hwf hin
      have hroom' : (s.count .overflow).room vs.length = 0 := hroom vs.length
      rw [hroom'] at h1 h5
      rw [hpush, hroom]
      refine ⟨?_, h2, h3, fun k hk => absurd hk (Nat.not_lt_zero k), fun a _ => h5 a ?_⟩
      · rw [h1]
        simp only [State.count, Stats.set_set, Nat.sub_zero, List.length_cons]
        congr 2
        show sat 32 ((sat 32 (s.stats.overflow.toNat + 1)).toNat + vs.length) = _
        rw [sat_add]
        congr 1
        omega
      · exact fun k hk => absurd hk (Nat.not_lt_zero k)
    · have hf' : s.ringFull = false := by simpa using hf
      have hlt := State.occ_lt h
      have hne : ¬ s.occ = s.cfg.ringCap - 1 := fun e => hf ((State.ringFull_iff h).mpr e)
      have hpush : s.push (v :: vs) = (s.storeRing v).push vs := by
        simp [State.push, State.pushOne, hf']
      have hinv := State.storeRing_inv h v
      have hocc := State.storeRing_occ h v hf'
      obtain ⟨h1, h2, h3, h4, h5⟩ := ih (s := s.storeRing v) hinv
        (Memory.wf_write hwf _ _) (Memory.within_write hin _ h.1)
      have hroom : s.room (v :: vs).length = (s.storeRing v).room vs.length + 1 := by
        simp only [State.room, State.storeRing_cfg, hocc, List.length_cons]
        omega
      have hroomlt : s.room (v :: vs).length < s.cfg.ringCap := by
        simp only [State.room]
        omega
      have hmod : ∀ k, ((s.storeRing v).wr + k) % s.cfg.ringCap = (s.wr + (k + 1)) % s.cfg.ringCap := by
        intro k
        show ((s.wr + 1) % s.cfg.ringCap + k) % s.cfg.ringCap = _
        rw [Nat.mod_add_mod]
        congr 1
        omega
      have hbase : (s.wr + 0) % s.cfg.ringCap = s.wr := Nat.mod_eq_of_lt h.1
      simp only [State.storeRing_cfg] at h1 h3 h4 h5
      rw [hpush, hroom]
      rw [hroom] at hroomlt
      refine ⟨?_, h2, h3, ?_, ?_⟩
      · rw [h1, hmod]
        simp only [State.storeRing, List.length_cons]
        congr 4
        omega
      · intro k hk
        cases k with
        | zero =>
          rw [h5]
          · rw [hbase, State.storeRing_ring, Memory.read_write_self hwf]
            rfl
          · intro k' hk'
            rw [hmod]
            exact ring_slot_ne h.1 (by omega) (by omega) (by omega)
        | succ k =>
          rw [← hmod, h4 k (by omega)]
          rfl
      · intro a ha
        rw [h5 a (fun k hk => by rw [hmod]; exact ha (k + 1) (by omega)), State.storeRing_ring]
        refine Memory.read_write_ne hwf _ ?_
        have := ha 0 (by omega)
        rwa [hbase] at this

/-- What a push can write, whatever the state: the ring, the write cursor and OVERFLOW (R202). -/
theorem State.push_frame (xs : List Sample) : ∀ s : State, s.push xs = { s with
    ring := (s.push xs).ring
    wr := (s.push xs).wr
    stats := s.stats.set .overflow (s.push xs).stats.overflow } := by
  induction xs with
  | nil => exact fun s => rfl
  | cons v vs ih =>
    intro s
    have h := ih (s.pushOne v)
    by_cases hf : s.ringFull = true
    · rw [show s.pushOne v = s.count .overflow by simp [State.pushOne, hf]] at h
      have e : s.push (v :: vs) = (s.count .overflow).push vs := by simp [State.push, State.pushOne, hf]
      rw [e]
      exact h
    · rw [show s.pushOne v = s.storeRing v by simp [State.pushOne, hf]] at h
      have e : s.push (v :: vs) = (s.storeRing v).push vs := by simp [State.push, State.pushOne, hf]
      rw [e]
      exact h

/-! ## The pull loop -/

/-- What `pull` can write, whatever the state: the read cursor and UNDERRUN (R203). -/
theorem State.pull_frame (n : Nat) : ∀ s : State, (s.pull n).2 = { s with
    rd := (s.pull n).2.rd
    stats := s.stats.set .underrun (s.pull n).2.stats.underrun } := by
  induction n with
  | zero => exact fun s => rfl
  | succ n ih =>
    intro s
    have h := ih s.pullOne.2
    by_cases he : s.ringEmpty = true
    · rw [show s.pullOne.2 = s.count .underrun by simp [State.pullOne, he]] at h
      have e : (s.pull (n + 1)).2 = ((s.count .underrun).pull n).2 := by
        simp [State.pull, State.pullOne, he]
      rw [e]
      exact h
    · let t : State := { s with rd := ringNext s.cfg s.rd }
      rw [show s.pullOne.2 = t by simp [State.pullOne, he, t]] at h
      have e : (s.pull (n + 1)).2 = (t.pull n).2 := by simp [State.pull, State.pullOne, he, t]
      rw [e]
      exact h

/-- What `pull` does (R203): the samples held come out in order from the read cursor on, each further slot
is silence and counts one underrun, and nothing else changes. -/
theorem State.pull_spec (n : Nat) : ∀ {s : State}, s.RingInv →
    (s.pull n).1 = (List.range n).map (fun k =>
      if k < s.occ then s.ring.read ((s.rd + k) % s.cfg.ringCap) else 0#16) ∧
    (s.pull n).2 = { s with
      rd := (s.rd + min n s.occ) % s.cfg.ringCap
      stats := s.stats.set .underrun
        (sat 32 (s.stats.underrun.toNat + (n - min n s.occ))) } := by
  induction n with
  | zero =>
    intro s h
    refine ⟨rfl, ?_⟩
    have hs : s.stats.set .underrun (sat 32 s.stats.underrun.toNat) = s.stats := by
      rw [sat_self]
      exact Stats.set_get s.stats .underrun
    simp only [State.pull, Nat.zero_min, Nat.add_zero, Nat.sub_zero, Nat.mod_eq_of_lt h.2, hs]
  | succ n ih =>
    intro s h
    by_cases he : s.ringEmpty = true
    · have hocc := (State.ringEmpty_iff h).mp he
      obtain ⟨h1, h2⟩ := ih (s := s.count .underrun) h
      have hocc' : (s.count .underrun).occ = 0 := hocc
      rw [hocc'] at h1 h2
      have hpull : s.pull (n + 1) =
          (0 :: ((s.count .underrun).pull n).1, ((s.count .underrun).pull n).2) := by
        simp [State.pull, State.pullOne, he]
      rw [hpull, hocc]
      refine ⟨?_, ?_⟩
      · show (0 : Sample) :: ((s.count .underrun).pull n).1 = _
        rw [h1, List.range_succ_eq_map]
        simp [Function.comp_def]
      · rw [h2]
        simp only [State.count, Stats.set_set, Nat.min_zero, Nat.sub_zero]
        congr 2
        show sat 32 ((sat 32 (s.stats.underrun.toNat + 1)).toNat + n) = _
        rw [sat_add]
        congr 1
        omega
    · have hlt := State.occ_lt h
      have hpos : 0 < s.occ := Nat.pos_of_ne_zero fun e => he ((State.ringEmpty_iff h).mpr e)
      let t : State := { s with rd := ringNext s.cfg s.rd }
      have hinv : t.RingInv := ⟨h.1, Nat.mod_lt _ (by omega)⟩
      have hocc : t.occ = s.occ - 1 := by
        rw [State.occ_eq hinv, State.occ_eq h]
        rw [State.occ_eq h] at hpos
        exact occ_next_rd h.1 h.2 hpos
      have hmod : ∀ k, (t.rd + k) % s.cfg.ringCap = (s.rd + (k + 1)) % s.cfg.ringCap := by
        intro k
        show ((s.rd + 1) % s.cfg.ringCap + k) % s.cfg.ringCap = _
        rw [Nat.mod_add_mod]
        congr 1
        omega
      obtain ⟨h1, h2⟩ := ih (s := t) hinv
      have hpull : s.pull (n + 1) = (s.ring.read s.rd :: (t.pull n).1, (t.pull n).2) := by
        simp [State.pull, State.pullOne, he, t]
      rw [hpull]
      refine ⟨?_, ?_⟩
      · show s.ring.read s.rd :: (t.pull n).1 = _
        rw [h1, List.range_succ_eq_map, List.map_cons, List.map_map]
        congr 1
        · rw [if_pos hpos, Nat.add_zero, Nat.mod_eq_of_lt h.2]
        · refine List.map_congr_left fun k _ => ?_
          show (if k < t.occ then s.ring.read ((t.rd + k) % s.cfg.ringCap) else 0#16) = _
          rw [hmod, hocc]
          simp only [Function.comp_apply, Nat.succ_eq_add_one]
          by_cases hk : k + 1 < s.occ
          · rw [if_pos hk, if_pos (by omega)]
          · rw [if_neg hk, if_neg (by omega)]
      · rw [h2]
        have hm : min (n + 1) s.occ = min n t.occ + 1 := by omega
        show { s with
          rd := (t.rd + min n t.occ) % s.cfg.ringCap
          stats := s.stats.set .underrun
            (sat 32 (s.stats.underrun.toNat + (n - min n t.occ))) : State } = _
        rw [hmod, hm]
        congr 4
        omega

@[simp] theorem State.pull_length (s : State) (n : Nat) : (s.pull n).1.length = n := by
  induction n generalizing s with
  | zero => rfl
  | succ n ih => simp [State.pull, ih]

/-! ## The output buffers -/

@[simp] theorem State.obuf_length (s : State) (b : Fin 2) :
    (s.obuf b).length = s.cfg.outBufSamples := by simp [State.obuf]

theorem State.setObuf_cfg (s : State) (b : Fin 2) (xs : List Sample) : (s.setObuf b xs).cfg = s.cfg := by
  unfold State.setObuf
  split <;> rfl

/-- A buffer written whole reads back whole, and the other buffer is as before (44_audio_ring R205). -/
theorem State.obuf_setObuf (s : State) (b c : Fin 2) (xs : List Sample)
    (h : xs.length = s.cfg.outBufSamples) :
    (s.setObuf b xs).obuf c = if c = b then xs else s.obuf c := by
  have ht : Memory.take (Memory.ofListFrom 0 xs) s.cfg.outBufSamples = xs := by
    rw [← h]
    exact Memory.take_ofListFrom xs
  fin_cases b <;> fin_cases c <;> simp [State.setObuf, State.obuf, ht]

end Sys2Proof.Machine
end

