-- ==== Sys2Proof/Laws/Parser.lean ====
section
/-! SUPPORT. Everything one byte can do to the parser (42_rx_parser R151 to R157), said once. -/

namespace Sys2Proof.Machine

/-- If the parser step answers a state and perhaps a frame, one of these transitions was taken. In each,
`s.count .bytesRx` is the state with the byte counted (R151). -/
inductive RxTransition (b : Byte) (s : State) : State → Option Frame → Prop where
  | sof0Match (h : s.pState = .waitSof0) (hb : b = s.cfg.sof0) :
    RxTransition b s { s.count .bytesRx with pState := .waitSof1 } none
  | sof0Stay (h : s.pState = .waitSof0) (hb : b ≠ s.cfg.sof0) :
    RxTransition b s (s.count .bytesRx) none
  | sof1Match (h : s.pState = .waitSof1) (hb : b = s.cfg.sof1) :
    RxTransition b s { s.count .bytesRx with pState := .header, hdrCnt := 0, pCrc := 0xFFFF } none
  | sof1Mismatch (h : s.pState = .waitSof1) (hb : b ≠ s.cfg.sof1) :
    RxTransition b s { (s.count .bytesRx).count .framingErr with pState := .waitSof0 } none
  | headerMore (h : s.pState = .header) (hc : s.hdrCnt < 3) :
    RxTransition b s { s.count .bytesRx with
      hdr := s.hdr.write s.hdrCnt b, hdrCnt := s.hdrCnt + 1, pCrc := crcStep s.pCrc b } none
  | headerOversize (h : s.pState = .header) (hc : s.hdrCnt = 3) (L : Nat)
      (hL : L = (joinLe16 ((s.hdr.write 3 b).read 2) ((s.hdr.write 3 b).read 3)).toNat)
      (hbig : maxPayload < L) :
    RxTransition b s { (s.count .bytesRx).count .framingErr with
      hdr := s.hdr.write 3 b, hdrCnt := 4, pCrc := crcStep s.pCrc b, pState := .waitSof0 } none
  | headerAccept (h : s.pState = .header) (hc : s.hdrCnt = 3) (L : Nat)
      (hL : L = (joinLe16 ((s.hdr.write 3 b).read 2) ((s.hdr.write 3 b).read 3)).toNat)
      (hfit : L ≤ maxPayload) :
    RxTransition b s { s.count .bytesRx with
      hdr := s.hdr.write 3 b, hdrCnt := 4, pCrc := crcStep s.pCrc b,
      pLen := L, payCnt := 0, pState := if L = 0 then .crcLo else .payload } none
  | payload (h : s.pState = .payload) (hc : s.payCnt < maxPayload) :
    RxTransition b s { s.count .bytesRx with
      pay := s.pay.write s.payCnt b, payCnt := s.payCnt + 1, pCrc := crcStep s.pCrc b,
      pState := if s.payCnt + 1 = s.pLen then .crcLo else .payload } none
  | crcLo (h : s.pState = .crcLo) :
    RxTransition b s { s.count .bytesRx with crcLo := b, pState := .crcHi } none
  | crcHiMatch (h : s.pState = .crcHi) (hcrc : joinLe16 s.crcLo b = s.pCrc)
      (hfit : s.pLen ≤ maxPayload) :
    RxTransition b s { (s.count .bytesRx).count .framesOk with pState := .waitSof0 }
      (some ⟨s.hdr.read 0, s.hdr.read 1, s.pay.take s.pLen⟩)
  | crcHiMismatch (h : s.pState = .crcHi) (hcrc : joinLe16 s.crcLo b ≠ s.pCrc) :
    RxTransition b s { (s.count .bytesRx).count .framesBadCrc with pState := .waitSof0 } none

/-- The parser step takes one of the transitions. -/
theorem rxStep_cases {b : Byte} {s t : State} {f : Option Frame} (h : rxStep b s = .ok (t, f)) :
    RxTransition b s t f := by
  unfold rxStep at h
  cases hp : s.pState <;> simp only [hp] at h
  · simp only [rxWaitSof0] at h
    split at h <;> obtain ⟨rfl, rfl⟩ := Prod.mk.inj (Except.ok.inj h)
    · exact .sof0Match hp ‹_›
    · exact .sof0Stay hp ‹_›
  · simp only [rxWaitSof1] at h
    split at h <;> obtain ⟨rfl, rfl⟩ := Prod.mk.inj (Except.ok.inj h)
    · exact .sof1Match hp ‹_›
    · exact .sof1Mismatch hp ‹_›
  · simp only [rxHeader, State.count_hdrCnt] at h
    split at h
    · cases h
    · rename_i hlt
      split at h <;> obtain ⟨rfl, rfl⟩ := Prod.mk.inj (Except.ok.inj h)
      · rename_i hc
        have hc : s.hdrCnt = 3 := by simpa using hc
        have e : s.hdr.write s.hdrCnt b = s.hdr.write 3 b := by rw [hc]
        by_cases hL : maxPayload < (joinLe16 ((s.hdr.write 3 b).read 2) ((s.hdr.write 3 b).read 3)).toNat
        · have tr := RxTransition.headerOversize (b := b) hp hc _ rfl hL
          simpa [rxHeaderEnd, State.storeHdr, State.count, hc, hL] using tr
        · have tr := RxTransition.headerAccept (b := b) hp hc _ rfl (Nat.le_of_not_lt hL)
          simpa [rxHeaderEnd, State.storeHdr, State.count, hc, hL] using tr
      · rename_i hc
        exact .headerMore hp (by
          have : ¬ s.hdrCnt + 1 = 4 := by simpa using hc
          omega)
  · simp only [rxPayload, State.count_payCnt] at h
    split at h
    · cases h
    · rename_i hlt
      have tr := RxTransition.payload (b := b) hp (Nat.lt_of_not_le hlt)
      split at h <;> obtain ⟨rfl, rfl⟩ := Prod.mk.inj (Except.ok.inj h)
      · rename_i hc
        have hc : s.payCnt + 1 = s.pLen := hc
        rw [if_pos hc] at tr
        exact tr
      · rename_i hc
        have hc : ¬ s.payCnt + 1 = s.pLen := hc
        rw [if_neg hc, ← hp] at tr
        exact tr
  · obtain ⟨rfl, rfl⟩ := Prod.mk.inj (Except.ok.inj h)
    exact .crcLo hp
  · unfold rxCrcHi at h
    split at h
    · split at h
      · cases h
      · obtain ⟨rfl, rfl⟩ := Prod.mk.inj (Except.ok.inj h)
        exact .crcHiMatch hp ‹_› (Nat.le_of_not_lt ‹_›)
    · obtain ⟨rfl, rfl⟩ := Prod.mk.inj (Except.ok.inj h)
      exact .crcHiMismatch hp ‹_›

/-- The parser step stops only where a cursor is out of range (R159). -/
theorem rxStep_error {b : Byte} {s : State} {e : Fault} (h : rxStep b s = .error e) :
    (s.pState = .header ∧ 4 ≤ s.hdrCnt) ∨ (s.pState = .payload ∧ maxPayload ≤ s.payCnt) ∨
      (s.pState = .crcHi ∧ maxPayload < s.pLen) := by
  unfold rxStep at h
  cases hp : s.pState <;> simp only [hp] at h
  · simp only [rxWaitSof0] at h
    split at h <;> cases h
  · simp only [rxWaitSof1] at h
    split at h <;> cases h
  · simp only [rxHeader, State.count_hdrCnt] at h
    split at h
    · exact .inl ⟨rfl, ‹_›⟩
    · split at h <;> cases h
  · simp only [rxPayload, State.count_payCnt] at h
    split at h
    · exact .inr (.inl ⟨rfl, ‹_›⟩)
    · split at h <;> cases h
  · cases h
  · unfold rxCrcHi at h
    split at h
    · split at h
      · exact .inr (.inr ⟨rfl, ‹_›⟩)
      · cases h
    · cases h

end Sys2Proof.Machine
end

