-- ==== Sys2Proof/Laws/PerInstr.lean ====
section
/-! SUPPORT. A fact about every operation, one lemma per constructor: its command word and its data kind
are a row of the opcode table (30_encoding R90). -/

namespace Sys2Proof.Laws

open Machine

/-- The operation's word and data kind are those of a row of the opcode table. -/
def MatchesTable.Statement (i : Instr) : Prop :=
  ∃ r ∈ opcodeTable, (encode i).word &&& r.mask = r.pattern ∧ i.dataKind = r.kind

/-- A row with its mask and pattern given by their fields. -/
theorem matches_row {i : Instr} (r : TableRow) (m p : Fields) (hr : r ∈ opcodeTable)
    (hm : r.mask = m.toWord) (hp : r.pattern = p.toWord) (hk : i.dataKind = r.kind)
    (h : Fields.mk (i.fields.op &&& m.op) (i.fields.idx &&& m.idx) (i.fields.b8 &&& m.b8)
      (i.fields.immHi &&& m.immHi) (i.fields.immLo &&& m.immLo) = p) :
    MatchesTable.Statement i :=
  ⟨r, hr, by rw [hm, hp, encode, Fields.toWord_and, h], hk⟩

theorem MatchesTable.crcInit (d : Data) : MatchesTable.Statement (.crcInit d) :=
  matches_row ⟨"CRC_INIT", 0xFFFFFFFF, 0x10000000, .none⟩ ⟨15, 15, 255, 255, 255⟩ ⟨1, 0, 0, 0, 0⟩
    (by decide) (by decide) (by decide) rfl (by simp [Instr.fields])

theorem MatchesTable.crcByte (b : Byte) (d : Data) : MatchesTable.Statement (.crcByte b d) :=
  matches_row ⟨"CRC_BYTE", 0xFFFFFF00, 0x20000000, .none⟩ ⟨15, 15, 255, 255, 0⟩ ⟨2, 0, 0, 0, 0⟩
    (by decide) (by decide) (by decide) rfl (by simp [Instr.fields])

theorem MatchesTable.crcRead (d : Data) : MatchesTable.Statement (.crcRead d) :=
  matches_row ⟨"CRC_READ", 0xFFFFFFFF, 0x30000000, .none⟩ ⟨15, 15, 255, 255, 255⟩ ⟨3, 0, 0, 0, 0⟩
    (by decide) (by decide) (by decide) rfl (by simp [Instr.fields])

theorem MatchesTable.encodeFrame (ty sq : Byte) (d : Data) :
    MatchesTable.Statement (.encodeFrame ty sq d) :=
  matches_row ⟨"ENCODE", 0xFF00FF00, 0x40000000, .bytes⟩ ⟨15, 15, 0, 255, 0⟩ ⟨4, 0, 0, 0, 0⟩
    (by decide) (by decide) (by decide) rfl (by simp [Instr.fields])

theorem MatchesTable.decodeFrame (d : Data) : MatchesTable.Statement (.decodeFrame d) :=
  matches_row ⟨"DECODE", 0xFFFFFFFF, 0x50000000, .bytes⟩ ⟨15, 15, 255, 255, 255⟩ ⟨5, 0, 0, 0, 0⟩
    (by decide) (by decide) (by decide) rfl (by simp [Instr.fields])

theorem MatchesTable.rxByte (b : Byte) (d : Data) : MatchesTable.Statement (.rxByte b d) :=
  matches_row ⟨"RX_BYTE", 0xFFFFFF00, 0x60000000, .none⟩ ⟨15, 15, 255, 255, 0⟩ ⟨6, 0, 0, 0, 0⟩
    (by decide) (by decide) (by decide) rfl (by simp [Instr.fields])

theorem MatchesTable.vadChunk (d : Data) : MatchesTable.Statement (.vadChunk d) :=
  matches_row ⟨"VAD_CHUNK", 0xFFFFFFFF, 0x70000000, .samples⟩ ⟨15, 15, 255, 255, 255⟩ ⟨7, 0, 0, 0, 0⟩
    (by decide) (by decide) (by decide) rfl (by simp [Instr.fields])

theorem MatchesTable.ringPush (d : Data) : MatchesTable.Statement (.ringPush d) :=
  matches_row ⟨"RING_PUSH", 0xFFFFFFFF, 0x80000000, .samples⟩ ⟨15, 15, 255, 255, 255⟩ ⟨8, 0, 0, 0, 0⟩
    (by decide) (by decide) (by decide) rfl (by simp [Instr.fields])

theorem MatchesTable.ringPull (n : Half) (d : Data) : MatchesTable.Statement (.ringPull n d) :=
  matches_row ⟨"RING_PULL", 0xFFFF0000, 0x90000000, .none⟩ ⟨15, 15, 255, 0, 0⟩ ⟨9, 0, 0, 0, 0⟩
    (by decide) (by decide) (by decide) rfl (by simp [Instr.fields])

theorem MatchesTable.bufComplete (d : Data) : MatchesTable.Statement (.bufComplete d) :=
  matches_row ⟨"BUF_COMPLETE", 0xFFFFFFFF, 0xA0000000, .none⟩ ⟨15, 15, 255, 255, 255⟩
    ⟨10, 0, 0, 0, 0⟩ (by decide) (by decide) (by decide) rfl (by simp [Instr.fields])

theorem MatchesTable.cfgRead (x : BitVec 4) (d : Data) : MatchesTable.Statement (.cfgRead x d) :=
  matches_row ⟨"CFG_READ", 0xF0FFFFFF, 0xB0000000, .none⟩ ⟨15, 0, 255, 255, 255⟩ ⟨11, 0, 0, 0, 0⟩
    (by decide) (by decide) (by decide) rfl (by simp [Instr.fields])

theorem MatchesTable.cfgWrite (x : BitVec 4) (v : Half) (d : Data) :
    MatchesTable.Statement (.cfgWrite x v d) :=
  matches_row ⟨"CFG_WRITE", 0xF0FF0000, 0xC0000000, .none⟩ ⟨15, 0, 255, 0, 0⟩ ⟨12, 0, 0, 0, 0⟩
    (by decide) (by decide) (by decide) rfl (by simp [Instr.fields])

theorem MatchesTable.statRead (x : BitVec 4) (d : Data) : MatchesTable.Statement (.statRead x d) :=
  matches_row ⟨"STAT_READ", 0xF0FFFFFF, 0xD0000000, .none⟩ ⟨15, 0, 255, 255, 255⟩ ⟨13, 0, 0, 0, 0⟩
    (by decide) (by decide) (by decide) rfl (by simp [Instr.fields])

theorem MatchesTable.statClear (d : Data) : MatchesTable.Statement (.statClear d) :=
  matches_row ⟨"STAT_CLEAR", 0xFFFFFFFF, 0xE0000000, .none⟩ ⟨15, 15, 255, 255, 255⟩ ⟨14, 0, 0, 0, 0⟩
    (by decide) (by decide) (by decide) rfl (by simp [Instr.fields])

theorem MatchesTable.softReset (d : Data) : MatchesTable.Statement (.softReset d) :=
  matches_row ⟨"SOFT_RESET", 0xFFFFFFFF, 0xF0000000, .none⟩ ⟨15, 15, 255, 255, 255⟩ ⟨15, 0, 0, 0, 0⟩
    (by decide) (by decide) (by decide) rfl (by simp [Instr.fields])

end Sys2Proof.Laws
end

