-- ==== Sys2Proof/Tests/Slice0.lean ====
section
/-! SUPPORT. The model's own tests. `test_…`: ill-formed operations, command words written out from
30_encoding R86 and R90, and single operations with the results of 95_test_vectors (named in each comment).
`witness_…`: a state and operands that meet the hypotheses of the statement of that name. -/

open Sys2Proof Sys2Proof.Machine

namespace Sys2Proof.Tests

/-- The next state of an outcome, if it has one. -/
def nextOf : Result → Option State
  | .next s => some s
  | .fault _ => none
  | .refused _ => none

/-- The state after an operation. -/
def after (i : Instr) (s : State) : Option State := nextOf (exec i s)

/-- The response of an operation. -/
def respOf (i : Instr) (s : State) : Option Response := (after i s).bind (·.resp)

/-- The response of a command word. -/
def wordResp (w : Word) (d : Data) (s : State) : Option Response := (nextOf (issue ⟨w, d⟩ s)).bind (·.resp)

/-- Samples from integers. -/
def smp (xs : List Int) : List Sample := xs.map (BitVec.ofInt 16)

/-- The test configuration of RING-1. -/
def small : Config := { Config.default with ringCap := 4, outBufSamples := 2 }

/-- A block of that configuration after power-on. -/
def blk : State := .powerOn small

/-- The frame `G` of section 2.2. -/
def frameG : List Byte := [0xAA, 0x55, 0x10, 0x05, 0x03, 0x00, 0x01, 0x02, 0x03, 0x57, 0x0A]

/-- The frame of RX-1. -/
def frame1 : List Byte := [0xAA, 0x55, 0x01, 0x00, 0x00, 0x00, 0x74, 0xF2]

/-- RX-1 after its seventh byte. -/
def atCrcHi : State :=
  { blk with pState := .crcHi, hdr := [(0, 1)], hdrCnt := 4, crcLo := 0x74, pCrc := 0xF274 }

/-- A parser about to take its last header byte, with a low length byte. -/
def atHeader (lo : Byte) : State :=
  { blk with pState := .header, hdr := Memory.ofListFrom 0 [0x10, 0x05, lo], hdrCnt := 3
             pCrc := crc16 [0x10, 0x05, lo] }

/-- RX-9 after step 1, with one payload byte stored. -/
def atPayload : State :=
  { blk with pState := .payload, hdr := [(0, 0x10), (1, 0x05), (2, 0x03)], hdrCnt := 4
             pay := [(0, 0x01)], payCnt := 1, pLen := 3, pCrc := 0xE062 }

/-- The VAD of section 2.4. -/
def vad : State := { blk with chunkSamples := 4 }

/-- The chunk `V` of section 2.4. -/
def chunkV : List Sample := smp [1001, 1001, 1001, 1001]

/-- The chunk `S` of section 2.4. -/
def chunkS : List Sample := smp [0, 0, 0, 0]

/-! ## Well-formedness: an operation with the wrong data kind, for each kind and each constructor -/

theorem test_wellFormed_none :
    ∀ i ∈ [Instr.crcInit (.bytes []), .crcByte 0 (.samples []), .crcRead (.bytes []),
      .rxByte 0 (.bytes []), .ringPull 0 (.samples []), .bufComplete (.bytes []),
      .cfgRead 0 (.bytes []), .cfgWrite 0 0 (.samples []), .statRead 0 (.bytes []),
      .statClear (.bytes []), .softReset (.samples [])], ¬ i.WellFormed := by decide

theorem test_wellFormed_bytes :
    ∀ i ∈ [Instr.encodeFrame 0 0 .none, .encodeFrame 0 0 (.samples []), .decodeFrame .none,
      .decodeFrame (.samples [])], ¬ i.WellFormed := by decide

theorem test_wellFormed_samples :
    ∀ i ∈ [Instr.vadChunk .none, .vadChunk (.bytes []), .ringPush .none, .ringPush (.bytes [])],
      ¬ i.WellFormed := by decide

theorem test_wellFormed_accepts :
    ∀ i ∈ [Instr.crcInit .none, .encodeFrame 0 0 (.bytes []), .vadChunk (.samples [])],
      i.WellFormed := by decide

/-! ## Decoding: every constructor from a word of R86 and R90 -/

theorem test_decode_crc :
    decode ⟨0x10000000#32, .none⟩ = .ok (.crcInit .none) ∧
    decode ⟨0x20000031#32, .none⟩ = .ok (.crcByte 0x31 .none) ∧
    decode ⟨0x30000000#32, .none⟩ = .ok (.crcRead .none) := by decide

theorem test_decode_frame :
    decode ⟨0x40100005#32, .bytes [1]⟩ = .ok (.encodeFrame 0x10 0x05 (.bytes [1])) ∧
    decode ⟨0x50000000#32, .bytes []⟩ = .ok (.decodeFrame (.bytes [])) ∧
    decode ⟨0x600000AA#32, .none⟩ = .ok (.rxByte 0xAA .none) := by decide

theorem test_decode_audio :
    decode ⟨0x70000000#32, .samples [0]⟩ = .ok (.vadChunk (.samples [0])) ∧
    decode ⟨0x80000000#32, .samples []⟩ = .ok (.ringPush (.samples [])) ∧
    decode ⟨0x90000105#32, .none⟩ = .ok (.ringPull 0x0105 .none) ∧
    decode ⟨0xA0000000#32, .none⟩ = .ok (.bufComplete .none) := by decide

theorem test_decode_control :
    decode ⟨0xBC000000#32, .none⟩ = .ok (.cfgRead 12 .none) ∧
    decode ⟨0xC30003E8#32, .none⟩ = .ok (.cfgWrite 3 1000 .none) ∧
    decode ⟨0xD6000000#32, .none⟩ = .ok (.statRead 6 .none) ∧
    decode ⟨0xE0000000#32, .none⟩ = .ok (.statClear .none) ∧
    decode ⟨0xF0000000#32, .none⟩ = .ok (.softReset .none) := by decide

/-- P6 lines 1 to 3, RX-11, CTRL-9, CTRL-13, ENC-10. -/
theorem test_decode_illegal :
    decode ⟨0x00000000#32, .none⟩ = .error .illegalOp ∧
    decode ⟨0x21000031#32, .none⟩ = .error .reservedField ∧
    decode ⟨0x20000131#32, .none⟩ = .error .reservedField ∧
    decode ⟨0x600001AA#32, .none⟩ = .error .reservedField ∧
    decode ⟨0xC8010005#32, .none⟩ = .error .reservedField ∧
    decode ⟨0xE0000001#32, .none⟩ = .error .reservedField ∧
    decode ⟨0xF1000000#32, .none⟩ = .error .reservedField ∧
    decode ⟨0x41010000#32, .none⟩ = .error .reservedField ∧
    decode ⟨0x91000002#32, .none⟩ = .error .reservedField := by
  refine ⟨?_, ?_, ?_, ?_, ?_, ?_, ?_, ?_, ?_⟩ <;> decide +kernel

/-- P6 lines 1, 4, 7. -/
theorem test_illegal_words_fail :
    wordResp 0x00000000 .none blk = some ⟨.illegalCmd, 0, .none, .none⟩ ∧
    wordResp 0x10000000 (.bytes [0]) blk = some ⟨.illegalCmd, 0, .none, .none⟩ ∧
    wordResp 0xB4000000 .none blk = some ⟨.badReg, 0, .none, .none⟩ := by decide +kernel

/-- A step takes the command that `withFetchWord` places. -/
theorem test_fetch_word :
    (nextOf (step (State.reset.withFetchWord 32 0xB0000000))).bind (·.resp) =
      some ⟨.ok, 1000, .none, .none⟩ := by decide +kernel

/-- R260's code column. -/
theorem test_status_codes :
    [Status.ok, .illegalCmd, .badReg, .payloadTooLarge, .crcMismatch, .truncated, .badSof, .lengthMismatch,
      .badChunk].map Status.code = [0, 1, 2, 3, 4, 5, 6, 7, 8] := by decide

/-! ## Single operations -/

/-- CRC-9. -/
theorem test_crcInit :
    after (.crcInit .none) { blk with crcAcc := 0x1234 } =
      some { blk with crcAcc := 0xFFFF, resp := some quiet } := by decide

/-- CRC-10. -/
theorem test_crcByte :
    after (.crcByte 0x31 .none) blk = some { blk with crcAcc := 0xC782, resp := some quiet } := by decide +kernel

/-- CRC-8, second byte. -/
theorem test_crcByte_second :
    (after (.crcByte 0x34 .none) { blk with crcAcc := 0xD383 }).map (·.crcAcc) = some 0x0EC9 := by decide +kernel

/-- CRC-11. -/
theorem test_crcRead :
    respOf (.crcRead .none) { blk with crcAcc := 0xC782 } = some ⟨.ok, 0xC782, .none, .none⟩ := by decide

/-- ENC-2. -/
theorem test_encode :
    after (.encodeFrame 0x10 0x05 (.bytes [1, 2, 3])) blk =
      some { blk with stats := { blk.stats with framesSent := 1 }
                      resp := some ⟨.ok, 0, .bytes frameG, .none⟩ } := by decide +kernel

/-- ENC-4, where the CRC is 0. -/
theorem test_encode_zero_crc :
    respOf (.encodeFrame 0xFF 0xFF (.bytes [])) blk =
      some ⟨.ok, 0, .bytes [0xAA, 0x55, 0xFF, 0xFF, 0, 0, 0, 0], .none⟩ := by decide +kernel

/-- DEC-1. -/
theorem test_decode_frame_ok :
    after (.decodeFrame (.bytes frameG)) blk =
      some { blk with resp := some ⟨.ok, 0x00031005, .bytes [1, 2, 3], .none⟩ } := by decide +kernel

/-- DEC-4, DEC-5, DEC-6, DEC-7, DEC-10, DEC-2. -/
theorem test_decode_frame_errors :
    decodeFrameBytes small (frameG.take 7) = .error .truncated ∧
    decodeFrameBytes small (0xAB :: frameG.tail) = .error .badSof ∧
    decodeFrameBytes small [0xAA, 0x55, 0x01, 0x00, 0x41, 0x02, 0, 0] = .error .payloadTooLarge ∧
    decodeFrameBytes small (frameG ++ [0]) = .error .lengthMismatch ∧
    decodeFrameBytes small [0, 0, 0, 0, 0, 0, 0] = .error .truncated ∧
    decodeFrameBytes small (frameG.dropLast ++ [0x0B]) = .error .crcMismatch := by decide +kernel

/-- RX-1, byte 8. -/
theorem test_rxByte_frame :
    after (.rxByte 0xF2 .none) atCrcHi =
      some { atCrcHi with pState := .waitSof0
                          stats := { blk.stats with bytesRx := 1, framesOk := 1 }
                          resp := some ⟨.ok, 0x00000100, .bytes [], .frame⟩ } := by decide +kernel

/-- RX-4, byte 2: a second SOF0 is not examined again. -/
theorem test_rxByte_doubled_sof0 :
    after (.rxByte 0xAA .none) { blk with pState := .waitSof1 } =
      some { blk with stats := { blk.stats with bytesRx := 1, framingErr := 1 }
                      resp := some quiet } := by decide

/-- VAD-1, chunk 6. -/
theorem test_vadChunk_latches :
    after (.vadChunk (.samples chunkV)) { vad with posRun := 2 } =
      some { vad with posRun := 3, latched := true
                      resp := some ⟨.ok, 0x00010003, .none, .vadStatus⟩ } := by decide

/-- VAD-4, the first item: a count of 0 latches on a run of 0. -/
theorem test_vadChunk_zero_count :
    respOf (.vadChunk (.samples chunkS)) { vad with vadPosCount := 0 } =
      some ⟨.ok, 0x00010000, .none, .vadStatus⟩ := by decide

/-- RING-1, step 1: drop-newest. -/
theorem test_ringPush :
    after (.ringPush (.samples (smp [10, 20, 30, 40, 50]))) blk =
      some { blk with ring := [(0, 10), (1, 20), (2, 30)], wr := 3
                      stats := { blk.stats with overflow := 2 }, resp := some quiet } := by decide

/-- RING-2. -/
theorem test_ringPush_wraps :
    after (.ringPush (.samples [5, 6])) { blk with wr := 3, rd := 3 } =
      some { blk with ring := [(0, 6), (3, 5)], wr := 1, rd := 3, resp := some quiet } := by decide

/-- RING-1, step 4. -/
theorem test_ringPull :
    after (.ringPull 5 .none) { blk with ring := [(0, 0xFFFE), (1, 20), (2, 30), (3, 0xFFFF)], wr := 1, rd := 2 } =
      some { blk with ring := [(0, 0xFFFE), (1, 20), (2, 30), (3, 0xFFFF)], wr := 1, rd := 1
                      stats := { blk.stats with underrun := 2 }
                      resp := some ⟨.ok, 0, .samples (smp [30, -1, -2, 0, 0]), .none⟩ } := by decide

/-- RING-1, step 7. -/
theorem test_bufComplete :
    after (.bufComplete .none)
        { blk with ring := [(0, 0xFFFE), (1, 7), (2, 8), (3, 9)], wr := 0, rd := 1, active := 1 } =
      some { blk with ring := [(0, 0xFFFE), (1, 7), (2, 8), (3, 9)], wr := 0, rd := 3, active := 0
                      obuf1 := [(0, 7), (1, 8)], resp := some ⟨.ok, 0, .samples [0, 0], .none⟩ } := by
  decide

/-- RING-1, step 8. -/
theorem test_bufComplete_underrun :
    after (.bufComplete .none)
        { blk with ring := [(3, 9)], wr := 0, rd := 3, obuf1 := [(0, 7), (1, 8)] } =
      some { blk with ring := [(3, 9)], wr := 0, rd := 0, obuf0 := [(0, 9)], obuf1 := [(0, 7), (1, 8)]
                      active := 1, stats := { blk.stats with underrun := 1 }
                      resp := some ⟨.ok, 0, .samples [7, 8], .none⟩ } := by decide

/-- CTRL-2, CTRL-3, CTRL-5. -/
theorem test_cfgRead :
    respOf (.cfgRead 3 .none) State.reset = some ⟨.ok, 0x100, .none, .none⟩ ∧
    respOf (.cfgRead 4 .none) State.reset = some ⟨.badReg, 0, .none, .none⟩ ∧
    respOf (.cfgRead 8 .none) State.reset = some quiet := by decide

/-- CTRL-6, CTRL-7. -/
theorem test_cfgWrite :
    after (.cfgWrite 0 0xFFFF .none) blk = some { blk with vadThreshold := 0xFFFF, resp := some quiet } ∧
    after (.cfgWrite 8 5 .none) blk = some { blk with resp := some ⟨.badReg, 0, .none, .none⟩ } := by decide

/-- CTRL-10 and R37's order. -/
theorem test_statRead :
    respOf (.statRead 6 .none) { blk with stats := ⟨1, 2, 3, 4, 5, 6, 7⟩ } = some ⟨.ok, 7, .none, .none⟩ ∧
    respOf (.statRead 7 .none) blk = some ⟨.badReg, 0, .none, .none⟩ := by decide

/-- CTRL-12. -/
theorem test_statClear :
    after (.statClear .none) { blk with wr := 3, stats := ⟨1, 2, 3, 4, 5, 6, 7⟩ } =
      some { blk with wr := 3, resp := some quiet } := by decide

/-- CTRL-14. -/
theorem test_softReset :
    after (.softReset .none)
        { blk with latched := true, pState := .payload, chunkSamples := 4, posRun := 5, crcAcc := 0x1234, wr := 3 } =
      some { blk with crcAcc := 0x1234, wr := 3, resp := some quiet } := by decide

/-- CTRL-15. -/
theorem test_counter_saturates :
    (after (.rxByte 0 .none) { blk with stats := { blk.stats with bytesRx := 0xFFFFFFFF } }).map
      (·.stats.bytesRx) = some 0xFFFFFFFF := by decide

/-- R95's form, as in the programs of section 3: P4 line 14, P2 line 1, P5 line 2. -/
theorem test_assemble :
    assembleLine .default "CFG_WRITE CHUNK_SAMPLES, 4 ; chunk" = .ok [.cfgWrite 3 4 .none] ∧
    assembleLine .default "ENCODE type=0x10, seq=0x05, [0x01]" =
      .ok [.encodeFrame 0x10 0x05 (.bytes [1])] ∧
    assembleLine .default "RING_PULL 65536" = .error .outOfRange := by decide +kernel

/-! ## Witnesses: the hypotheses of the statements are met -/

/-- The outcome is a next state with this response. -/
def Answers (r : Result) (x : Response) : Prop := ∃ t, r = .next t ∧ t.resp = some x

theorem witness_EncodeOfDecode : decode ⟨0x90000105#32, .none⟩ = .ok (.ringPull 0x0105 .none) := by decide

theorem witness_IllegalCommandsFail :
    ¬ Legal ⟨0x20000131#32, .none⟩ ∧ ¬ Legal ⟨0x10000000#32, .bytes [0]⟩ ∧
    Legal ⟨0x20000031#32, .none⟩ := by decide +kernel

theorem witness_StepRunsDecodedCommand :
    ({ blk with pending := [⟨0x20000031#32, .none⟩, ⟨0x20000131#32, .none⟩] } : State).pending =
      [⟨0x20000031#32, .none⟩, ⟨0x20000131#32, .none⟩] ∧
    decode ⟨0x20000031#32, .none⟩ = .ok (.crcByte 0x31 .none) ∧
    decode ⟨0x20000131#32, .none⟩ = .error .reservedField ∧ blk.pending = [] := by decide

theorem witness_ParametersAndQueueKept : ∃ t, exec (.crcInit .none) blk = .next t := ⟨_, rfl⟩

theorem witness_FailedOperationsChangeNothing :
    Answers (exec (.cfgRead 4 .none) blk) ⟨.badReg, 0, .none, .none⟩ ∧ Status.badReg ≠ .ok :=
  ⟨⟨_, rfl, rfl⟩, by decide⟩

theorem witness_StatusRaisedBy :
    respOf (.crcInit (.bytes [])) blk = some ⟨.illegalCmd, 0, .none, .none⟩ ∧
    respOf (.cfgRead 4 .none) blk = some ⟨.badReg, 0, .none, .none⟩ ∧
    respOf (.decodeFrame (.bytes [0xAA, 0x55, 1, 0, 0x41, 2, 0, 0])) blk =
      some ⟨.payloadTooLarge, 0, .none, .none⟩ ∧
    respOf (.decodeFrame (.bytes (frameG.dropLast ++ [0x0B]))) blk =
      some ⟨.crcMismatch, 0, .none, .none⟩ ∧
    respOf (.decodeFrame (.bytes [])) blk = some ⟨.truncated, 0, .none, .none⟩ ∧
    respOf (.decodeFrame (.bytes (0xAB :: frameG.tail))) blk = some ⟨.badSof, 0, .none, .none⟩ ∧
    respOf (.decodeFrame (.bytes (frameG ++ [0]))) blk = some ⟨.lengthMismatch, 0, .none, .none⟩ ∧
    respOf (.vadChunk (.samples [])) blk = some ⟨.badChunk, 0, .none, .none⟩ := by decide +kernel

theorem witness_EventsEmittedBy :
    respOf (.rxByte 0xF2 .none) atCrcHi = some ⟨.ok, 0x100, .bytes [], .frame⟩ ∧
    respOf (.vadChunk (.samples chunkV)) { vad with posRun := 2 } =
      some ⟨.ok, 0x00010003, .none, .vadStatus⟩ := by decide +kernel

/-- CRC_READ meets the hypotheses of every clause. -/
theorem witness_StateWrittenOnlyBy :
    (∃ t, exec (.crcRead .none) blk = .next t) ∧
    (∀ d, Instr.crcRead .none ≠ .crcInit d) ∧ (∀ b d, Instr.crcRead .none ≠ .crcByte b d) ∧
    (∀ b d, Instr.crcRead .none ≠ .rxByte b d) ∧ (∀ d, Instr.crcRead .none ≠ .softReset d) ∧
    (∀ d, Instr.crcRead .none ≠ .vadChunk d) ∧ (∀ x v d, Instr.crcRead .none ≠ .cfgWrite x v d) ∧
    (∀ d, Instr.crcRead .none ≠ .ringPush d) ∧ (∀ n d, Instr.crcRead .none ≠ .ringPull n d) ∧
    (∀ d, Instr.crcRead .none ≠ .bufComplete d) ∧ (∀ d, Instr.crcRead .none ≠ .statClear d) ∧
    (∀ ty sq d, Instr.crcRead .none ≠ .encodeFrame ty sq d) := by
  refine ⟨⟨_, rfl⟩, ?_, ?_, ?_, ?_, ?_, ?_, ?_, ?_, ?_, ?_, ?_⟩ <;> intros <;> intro h <;> cases h

theorem witness_InvariantsAtPowerOn :
    Config.default.Legal ∧ Config.Legal { Config.default with ringCap := 2, outBufSamples := 1 } ∧
    Config.Legal { Config.default with ringCap := 65536, outBufSamples := 65535 } := by decide +kernel

theorem witness_Inv : (blk.Inv ∧ atCrcHi.Inv) ∧ (atHeader 0x40).Inv ∧ atPayload.Inv :=
  ⟨⟨by decide +kernel, by decide +kernel⟩, by decide +kernel, by decide +kernel⟩

theorem witness_StepKeepsInvariant :
    blk.Inv ∧ ∃ t, step { blk with pending := [⟨0xE0000000#32, .none⟩] } = .next t ∧ t.pending = [] :=
  ⟨by decide +kernel, _, rfl, rfl⟩

theorem witness_ParserBoundsKept : blk.ParserInv ∧ atPayload.ParserInv ∧ atCrcHi.ParserInv := by decide

theorem witness_RunningCrcKept :
    atPayload.Inv ∧ atPayload.CrcInv ∧ (atHeader 3).CrcInv ∧ atCrcHi.CrcInv ∧
    (nextOf (step { atPayload with pending := [⟨0x60000002#32, .none⟩] })).isSome := by decide +kernel

theorem witness_CountersSaturateAndNeverDecrease :
    Instr.statRead 0 .none ≠ .statClear .none ∧ Instr.statClear (.bytes []) ≠ .statClear .none ∧
    Counter.bytesRx ≠ .overflow ∧ ∃ t, exec (.statRead 0 .none) blk = .next t :=
  ⟨by decide, by decide, by decide, _, rfl⟩

theorem witness_IdempotentOperations :
    ∀ i ∈ [Instr.crcInit .none, .crcRead .none, .decodeFrame (.bytes []), .cfgRead 0 .none,
      .cfgWrite 0 1 .none, .statRead 0 .none, .statClear .none, .softReset .none],
      (after i blk).isSome := by decide +kernel

/-- One command of each operation code that `IllegalUnless` covers. -/
theorem witness_IllegalUnless :
    ∀ p ∈ List.zip [0x10000001#32, 0x21000000#32, 0x30010000#32, 0x40000100#32, 0x50000001#32,
        0x60000100#32, 0x70000001#32, 0x80000001#32, 0x91000000#32, 0xA0000001#32, 0xB0000001#32,
        0xC0010000#32, 0xD0000001#32, 0xE0000001#32, 0xF0000001#32] opcodeTable,
      p.1.extractLsb' 28 4 = p.2.pattern.extractLsb' 28 4 ∧ ¬ p.1 &&& p.2.mask = p.2.pattern := by
  decide +kernel

theorem witness_FrameLayout :
    (Frame.mk 1 2 []).payload.length ≤ maxPayload ∧ (Frame.mk 1 2 [7]).payload.length ≤ maxPayload ∧
    0 < (Frame.mk 1 2 [7]).payload.length := by decide

/-- The lengths 0, 576 and 577. -/
theorem witness_EncodeOperation :
    ([] : List Byte).length ≤ maxPayload ∧ (List.replicate 576 (0 : Byte)).length ≤ maxPayload ∧
    maxPayload < (List.replicate 577 (0 : Byte)).length := by
  rw [List.length_replicate, List.length_replicate]
  decide

theorem witness_DecodeOfEncodedFrame :
    (Frame.mk 1 2 (List.replicate 576 0x5A)).payload.length ≤ maxPayload :=
  Nat.le_of_eq List.length_replicate

theorem witness_DecodeAcceptsOnlyFrames :
    decodeFrameBytes small frameG = .ok ⟨0x10, 0x05, [1, 2, 3]⟩ := by decide +kernel

/-- DEC-4, DEC-5, DEC-6, DEC-7, DEC-2, DEC-1. -/
theorem witness_DecodeChecksInOrder :
    (frameG.take 7).length < 8 ∧ (8 ≤ frame1.length ∧ (0xAB :: frame1.tail).getD 0 0 ≠ small.sof0) ∧
    (frame1.getD 0 0 = small.sof0 ∧ frame1.getD 1 0 = small.sof1) ∧
    576 < ((0x41 : Byte)).toNat + 256 * ((0x02 : Byte)).toNat ∧
    ((0x40 : Byte)).toNat + 256 * ((0x02 : Byte)).toNat ≤ 576 ∧
    (frameG.getD 4 0).toNat + 256 * (frameG.getD 5 0).toNat = 3 ∧
    (frameG ++ [0]).length ≠ 8 + 3 ∧ frameG.length = 8 + 3 ∧
    (frameG.getD 9 0).toNat + 256 * (frameG.getD 10 0).toNat =
      (crc16 ((frameG.drop 2).take 7)).toNat ∧
    (frameG.getD 9 0).toNat + 256 * (0x0B : Byte).toNat ≠
      (crc16 ((frameG.drop 2).take 7)).toNat := by decide +kernel

theorem witness_DecodeOperation :
    decodeFrameBytes blk.cfg frameG = .ok ⟨0x10, 0x05, [1, 2, 3]⟩ ∧
    decodeFrameBytes blk.cfg [] = .error .truncated := by decide +kernel

theorem witness_PackedResponseFields : 0 ≤ maxPayload ∧ 576 ≤ maxPayload := by decide

theorem witness_RxByteOperation : blk.ParserInv ∧ atCrcHi.ParserInv := by decide

theorem witness_RxWaitSof0 : blk.pState = .waitSof0 ∧ 0xAA = blk.cfg.sof0 ∧ 0x55 ≠ blk.cfg.sof0 := by
  decide

theorem witness_RxWaitSof1 :
    ({ blk with pState := .waitSof1 } : State).pState = .waitSof1 ∧ 0x55 = blk.cfg.sof1 ∧
    0xAA ≠ blk.cfg.sof1 := by decide

/-- Declared lengths 577, 576, 1 and 0, and a header byte that is not the last. -/
theorem witness_RxHeader :
    (atHeader 0x41).pState = .header ∧ (atHeader 0x41).hdr.wf = true ∧ (atHeader 0x41).hdrCnt = 3 ∧
    ((atHeader 0x41).hdr.read 2).toNat + 256 * (0x02 : Byte).toNat = 577 ∧
    (atHeader 0x40).hdr.wf = true ∧
    ((atHeader 0x40).hdr.read 2).toNat + 256 * (0x02 : Byte).toNat = 576 ∧
    (atHeader 1).hdr.wf = true ∧ ((atHeader 1).hdr.read 2).toNat + 256 * (0x00 : Byte).toNat = 1 ∧
    (atHeader 0).hdr.wf = true ∧ ((atHeader 0).hdr.read 2).toNat + 256 * (0x00 : Byte).toNat = 0 ∧
    ({ atHeader 0 with hdrCnt := 2 } : State).hdrCnt < 3 := by decide +kernel

/-- A payload byte that is not the last, and the last of 576. -/
theorem witness_RxPayload :
    (atPayload.pState = .payload ∧ atPayload.payCnt < atPayload.pLen ∧ atPayload.pLen ≤ maxPayload) ∧
    575 < 576 ∧ 575 + 1 = maxPayload := by decide

theorem witness_RxCrcLo : ({ blk with pState := .crcLo } : State).pState = .crcLo := by decide

theorem witness_RxCrcHi :
    atCrcHi.pState = .crcHi ∧ atCrcHi.pLen ≤ maxPayload ∧
    atCrcHi.crcLo.toNat + 256 * (0xF2 : Byte).toNat = atCrcHi.pCrc.toNat ∧
    atCrcHi.crcLo.toNat + 256 * (0xF3 : Byte).toNat ≠ atCrcHi.pCrc.toNat := by decide

theorem witness_EmittedFrameHasItsCrc :
    atCrcHi.Inv ∧ atCrcHi.CrcInv ∧
    respOf (.rxByte 0xF2 .none) atCrcHi = some ⟨.ok, 0x100, .bytes [], .frame⟩ := by decide +kernel

/-- A WAIT_SOF1 mismatch, an oversize length, the end of CRC_HI, and SOFT_RESET. -/
theorem witness_WaysBackToHunting :
    (after (.rxByte 0xAA .none) { blk with pState := .waitSof1 }).map (·.pState) = some .waitSof0 ∧
    (after (.rxByte 0x02 .none) (atHeader 0x41)).map (·.pState) = some .waitSof0 ∧
    (after (.rxByte 0xF3 .none) atCrcHi).map (·.pState) = some .waitSof0 ∧
    (after (.softReset .none) atPayload).map (·.pState) = some .waitSof0 ∧
    (atHeader 0x41).hdr.wf = true ∧ atCrcHi.pState ≠ .waitSof0 := by decide +kernel

/-- RX-1's frame, RX-7's and RX-3's. -/
theorem witness_ParserAgreesWithDecode :
    blk.Inv ∧ blk.pState = .waitSof0 ∧
    decodeFrameBytes blk.cfg frame1 = .ok ⟨0x01, 0x00, []⟩ ∧
    decodeFrameBytes blk.cfg (frame1.dropLast ++ [0xF3]) = .error .crcMismatch ∧
    decodeFrameBytes blk.cfg [0xAA, 0x55, 1, 0, 0x41, 2, 0, 0] = .error .payloadTooLarge ∧
    ([0] : List Byte) ≠ [] := by decide +kernel

/-- Either clause: no chunk length, and a chunk one sample short. -/
theorem witness_VadChunkLengthCheck :
    ({ vad with chunkSamples := 0 } : State).chunkSamples = 0#16 ∧
    (smp [0, 0, 0]).length ≠ vad.chunkSamples.toNat := by decide

theorem witness_VadEnergy :
    vad.chunkSamples ≠ 0#16 ∧ chunkV.length = vad.chunkSamples.toNat ∧
    ({ vad with vadThreshold := 0xFFFF } : State).vadThreshold = 0xFFFF#16 ∧
    ({ vad with vadThreshold := 0 } : State).vadThreshold = 0#16 := by decide

theorem witness_VadChunkOperation :
    vad.chunkSamples ≠ 0#16 ∧ chunkS.length = vad.chunkSamples.toNat := by decide

/-- Two voice chunks and three, with `vad_pos_count = 3`. -/
theorem witness_VadLatchesOnRun :
    vad.latched = false ∧ vad.chunkSamples ≠ 0#16 ∧
    (∀ x ∈ [chunkV], x.length = vad.chunkSamples.toNat ∧ isVoice vad x = true) ∧
    vad.posRun.toNat + [chunkV, chunkV].length < vad.vadPosCount.toNat ∧
    vad.posRun.toNat + [chunkV, chunkV, chunkV].length = vad.vadPosCount.toNat := by decide +kernel

/-- Two silent chunks and three, with `vad_neg_count = 3`. -/
theorem witness_VadUnlatchesOnRun :
    ({ vad with latched := true } : State).latched = true ∧ vad.chunkSamples ≠ 0#16 ∧
    (∀ x ∈ [chunkS], x.length = vad.chunkSamples.toNat ∧ isVoice vad x = false) ∧
    vad.negRun.toNat + [chunkS, chunkS].length < vad.vadNegCount.toNat ∧
    vad.negRun.toNat + [chunkS, chunkS, chunkS].length = vad.vadNegCount.toNat := by decide +kernel

/-- An empty ring and a full one. -/
theorem witness_RingPushOperation :
    (blk.RingInv ∧ blk.ring.wf = true ∧ blk.ring.within blk.cfg.ringCap = true) ∧
    5 - min 5 (blk.cfg.ringCap - 1 - blk.occ) = 2 ∧
    ({ blk with wr := 3 } : State).RingInv ∧
    min 1 (blk.cfg.ringCap - 1 - ({ blk with wr := 3 } : State).occ) = 0 := by decide

/-- Fewer samples asked for than held, and more. -/
theorem witness_RingPullOperation :
    ({ blk with wr := 3 } : State).RingInv ∧ 2 = min 2 ({ blk with wr := 3 } : State).occ ∧
    3 = min 5 ({ blk with wr := 3 } : State).occ := by decide

theorem witness_BufCompleteOperation :
    ({ blk with wr := 3 } : State).RingInv ∧ 2 = blk.cfg.outBufSamples ∧
    2 = min 2 ({ blk with wr := 3 } : State).occ ∧ 0 = min 2 blk.occ := by decide

theorem witness_RingConservation :
    blk.Inv ∧ ∃ t rs, runOps [.ringPush (.samples [1, 2, 3, 4]), .ringPull 5 .none] blk = some (t, rs) ∧
      t.stats.overflow ≠ 0xFFFFFFFF#32 ∧ t.stats.underrun ≠ 0xFFFFFFFF#32 :=
  ⟨by decide +kernel, _, _, rfl, by decide, by decide⟩

/-- No sample, and as many as the ring can hold. -/
theorem witness_RingIsFifo :
    blk.Inv ∧ blk.occ = 0 ∧ ((0 : Half).toNat = ([] : List Sample).length ∧
      ([] : List Sample).length < blk.cfg.ringCap) ∧
    ((3 : Half).toNat = ([1, 2, 3] : List Sample).length ∧
      ([1, 2, 3] : List Sample).length < blk.cfg.ringCap) := by decide +kernel

theorem witness_BufferPathTakesTwo :
    blk.Inv ∧ (∃ t rs, runOps [.bufComplete .none, .ringPush (.samples [1]), .bufComplete .none] blk =
      some (t, rs)) ∧ ∀ d, Instr.ringPush (.samples [1]) ≠ .bufComplete d :=
  ⟨by decide +kernel, ⟨_, _, rfl⟩, fun _ h => nomatch h⟩

theorem witness_CfgReadOperation : blk.cfg.Legal ∧ blk.RingInv := by decide

theorem witness_CfgWriteOperation : 3#4 < 4#4 ∧ 3#4 < 15#4 := by decide

theorem witness_StatReadOperation : 6#4 < 7#4 ∧ 6#4 < 15#4 := by decide

theorem witness_AssembledOperationsAreLegal :
    assembleLine .default "VAD_CONFIG 1000, 3, 3, 4" = .ok (vadConfigOps 1000 3 3 4) := by decide +kernel

end Sys2Proof.Tests
end

section
/-! PROOFS. The command port: what `issue` does with a command that decodes and one that does not, what
`step` does with the queue, and the obligation on a step (00_scope R6, 20_memory R70, 60_exceptions R275). -/

namespace Sys2Proof.Machine

/-! ## One command -/

theorem issue_of_decode_ok {c : Command} {i : Instr} (h : decode c = .ok i) (s : State) :
    issue c s = exec i s := by
  simp only [issue, h]

theorem issue_of_decode_error {c : Command} {e : DecodeError} (h : decode c = .error e) (s : State) :
    issue c s = .next (s.failedWith .illegalCmd) := by
  simp only [issue, h, State.fail_eq]

/-! ## One step -/

theorem step_of_pending_nil {s : State} (h : s.pending = []) : step s = .next s := by
  simp only [step, h]

theorem step_of_pending_cons {s : State} {c : Command} {cs : List Command} (h : s.pending = c :: cs) :
    step s = issue c { s with pending := cs } := by
  simp only [step, h]

/-- Settles O5: a step issues the command at the head of the queue, and what `issue` does is fixed by
whether that command decodes. -/
theorem stepRunsDecodedCommand : Obligations.StepRunsDecodedCommand := by
  refine ⟨fun s c cs i hp hd => ?decodes, fun s c cs e hp hd => ?illegal, fun s hp => ?idle⟩
  case decodes => rw [step_of_pending_cons hp, issue_of_decode_ok hd]
  case illegal => rw [step_of_pending_cons hp, issue_of_decode_error hd]
  case idle => exact step_of_pending_nil hp

end Sys2Proof.Machine
end

section
/-! PROOFS. Everything an operation can do, said once: the guards and the next state of each operation that
completes (30_encoding R90), and the parts of the state each one writes (10_state R20 to R37). -/

namespace Sys2Proof.Machine

/-! ## The data channel -/

theorem data_eq_none_of_kind {d : Data} (h : d.kind = .none) : d = .none := by
  cases d with
  | none => rfl
  | bytes | samples => cases h

theorem data_eq_bytes_of_kind {d : Data} (h : d.kind = .bytes) : ∃ bs, d = .bytes bs := by
  cases d with
  | bytes bs => exact ⟨bs, rfl⟩
  | none | samples => cases h

theorem data_eq_samples_of_kind {d : Data} (h : d.kind = .samples) : ∃ xs, d = .samples xs := by
  cases d with
  | samples xs => exact ⟨xs, rfl⟩
  | none | bytes => cases h

/-! ## The effect of an operation -/

/-- The response of RX_BYTE for the frame the byte completed, if it did (42_rx_parser R150). -/
def rxResponse : Option Frame → Response
  | none => quiet
  | some f => ⟨.ok, packFrame f.payload.length f.ty f.sq, .bytes f.payload, .frame⟩

/-- The response of VAD_CHUNK for the flip of the latch, if there was one (43_vad R186). -/
def vadResponse : Option (Bool × Half) → Response
  | none => quiet
  | some (l, run) => ⟨.ok, packVad l run, .none, .vadStatus⟩

/-- The runs, the latch and the flip after a chunk of the right length (43_vad R183 to R185). -/
def State.vadAfter (s : State) (xs : List Sample) : State × Option (Bool × Half) :=
  (s.updateRuns (isVoice s xs)).flip

/-- If an operation answers a state, it is one of these: the operation failed, or its data channel is of
the right kind, its guards hold and its effect is the one its rule gives. -/
inductive ExecEffect (s : State) : Instr → State → Prop where
  | failed (i : Instr) (e : Status) : ExecEffect s i (s.failedWith e)
  | crcInit : ExecEffect s (.crcInit .none) ({ s with crcAcc := 0xFFFF }.okWith 0 .none)
  | crcByte (b : Byte) :
    ExecEffect s (.crcByte b .none) ({ s with crcAcc := crcStep s.crcAcc b }.okWith 0 .none)
  | crcRead : ExecEffect s (.crcRead .none) (s.okWith (s.crcAcc.zeroExtend 32) .none)
  | encodeFrame (ty sq : Byte) (p : List Byte) (hfit : p.length ≤ maxPayload) :
    ExecEffect s (.encodeFrame ty sq (.bytes p))
      ((s.count .framesSent).okWith 0 (.bytes (frameBytes s.cfg ⟨ty, sq, p⟩)))
  | decodeFrame (F : List Byte) (f : Frame) (hok : decodeFrameBytes s.cfg F = .ok f) :
    ExecEffect s (.decodeFrame (.bytes F))
      (s.okWith (packFrame f.payload.length f.ty f.sq) (.bytes f.payload))
  | rxByte (b : Byte) (u : State) (f : Option Frame) (hrx : RxTransition b s u f) :
    ExecEffect s (.rxByte b .none) { u with resp := some (rxResponse f) }
  | vadChunk (xs : List Sample) (hpos : s.chunkSamples ≠ 0)
      (hlen : xs.length = s.chunkSamples.toNat) :
    ExecEffect s (.vadChunk (.samples xs))
      { (s.vadAfter xs).1 with resp := some (vadResponse (s.vadAfter xs).2) }
  | ringPush (xs : List Sample) (hwr : s.wr < s.cfg.ringCap) :
    ExecEffect s (.ringPush (.samples xs)) ((s.push xs).okWith 0 .none)
  | ringPull (n : Half) (hrd : s.rd < s.cfg.ringCap) :
    ExecEffect s (.ringPull n .none)
      ((s.pull n.toNat).2.okWith 0 (.samples (s.pull n.toNat).1))
  | bufComplete (hrd : s.rd < s.cfg.ringCap) :
    ExecEffect s (.bufComplete .none)
      (s.swapRefill.okWith 0 (.samples (s.swapRefill.obuf s.swapRefill.active)))
  | cfgRead (x : BitVec 4) (v : Word) (hreg : s.cfgReg x = some v) :
    ExecEffect s (.cfgRead x .none) (s.okWith v .none)
  | cfgWrite (x : BitVec 4) (v : Half) (u : State) (hreg : s.setCfgReg x v = some u) :
    ExecEffect s (.cfgWrite x v .none) (u.okWith 0 .none)
  | statRead (x : BitVec 4) (k : Counter) (hstat : statAt x = some k) :
    ExecEffect s (.statRead x .none) (s.okWith (s.stats.get k) .none)
  | statClear :
    ExecEffect s (.statClear .none) ({ s with stats := ⟨0, 0, 0, 0, 0, 0, 0⟩ }.okWith 0 .none)
  | softReset : ExecEffect s (.softReset .none) (s.softReset.okWith 0 .none)

theorem execRxByte_cases {b : Byte} {s t : State} (h : execRxByte b .none s = .next t) :
    ExecEffect s (.rxByte b .none) t := by
  simp only [execRxByte, withNone_none] at h
  split at h
  · cases h
  · cases h
    exact .rxByte b _ none (rxStep_cases ‹_›)
  · rename_i f hstep
    cases h
    exact .rxByte b _ (some f) (rxStep_cases hstep)

theorem execVadChunk_cases {xs : List Sample} {s t : State}
    (h : execVadChunk (.samples xs) s = .next t) : ExecEffect s (.vadChunk (.samples xs)) t := by
  simp only [execVadChunk, withSamples_samples] at h
  split at h
  · cases h
    exact .failed _ _
  · rename_i hguard
    obtain ⟨hpos, hlen⟩ := not_or.mp hguard
    have effect := ExecEffect.vadChunk xs hpos (not_not.mp hlen)
    rw [State.vadAfter] at effect
    generalize (s.updateRuns (isVoice s xs)).flip = afterFlip at h effect
    obtain ⟨u, _ | ⟨l, run⟩⟩ := afterFlip <;> cases h <;> exact effect

/-- A well-formed operation that answers a state has one of the effects. -/
theorem exec_cases_of_wellFormed {i : Instr} {s t : State} (hwf : i.WellFormed)
    (h : exec i s = .next t) : ExecEffect s i t := by
  cases i with
  | crcInit d =>
    obtain rfl := data_eq_none_of_kind hwf
    cases h
    exact .crcInit
  | crcByte b d =>
    obtain rfl := data_eq_none_of_kind hwf
    cases h
    exact .crcByte b
  | crcRead d =>
    obtain rfl := data_eq_none_of_kind hwf
    cases h
    exact .crcRead
  | encodeFrame ty sq d =>
    obtain ⟨p, rfl⟩ := data_eq_bytes_of_kind hwf
    simp only [exec, execEncodeFrame, withBytes_bytes] at h
    split at h <;> cases h
    · exact .failed _ _
    · exact .encodeFrame ty sq p (Nat.le_of_not_lt ‹_›)
  | decodeFrame d =>
    obtain ⟨F, rfl⟩ := data_eq_bytes_of_kind hwf
    simp only [exec, execDecodeFrame, withBytes_bytes] at h
    split at h <;> cases h
    · exact .failed _ _
    · exact .decodeFrame F _ ‹_›
  | rxByte b d =>
    obtain rfl := data_eq_none_of_kind hwf
    exact execRxByte_cases h
  | vadChunk d =>
    obtain ⟨xs, rfl⟩ := data_eq_samples_of_kind hwf
    exact execVadChunk_cases h
  | ringPush d =>
    obtain ⟨xs, rfl⟩ := data_eq_samples_of_kind hwf
    simp only [exec, execRingPush, withSamples_samples] at h
    split at h <;> cases h
    exact .ringPush xs (Nat.lt_of_not_le ‹_›)
  | ringPull n d =>
    obtain rfl := data_eq_none_of_kind hwf
    simp only [exec, execRingPull, withNone_none] at h
    split at h <;> cases h
    exact .ringPull n (Nat.lt_of_not_le ‹_›)
  | bufComplete d =>
    obtain rfl := data_eq_none_of_kind hwf
    simp only [exec, execBufComplete, withNone_none] at h
    split at h <;> cases h
    exact .bufComplete (Nat.lt_of_not_le ‹_›)
  | cfgRead x d =>
    obtain rfl := data_eq_none_of_kind hwf
    simp only [exec, execCfgRead, withNone_none] at h
    split at h <;> cases h
    · exact .failed _ _
    · exact .cfgRead x _ ‹_›
  | cfgWrite x v d =>
    obtain rfl := data_eq_none_of_kind hwf
    simp only [exec, execCfgWrite, withNone_none] at h
    split at h <;> cases h
    · exact .failed _ _
    · exact .cfgWrite x v _ ‹_›
  | statRead x d =>
    obtain rfl := data_eq_none_of_kind hwf
    simp only [exec, execStatRead, withNone_none] at h
    split at h <;> cases h
    · exact .failed _ _
    · exact .statRead x _ ‹_›
  | statClear d =>
    obtain rfl := data_eq_none_of_kind hwf
    cases h
    exact .statClear
  | softReset d =>
    obtain rfl := data_eq_none_of_kind hwf
    cases h
    exact .softReset

/-- An operation that answers a state has one of the effects; an ill-formed one fails. -/
theorem exec_cases {i : Instr} {s t : State} (h : exec i s = .next t) : ExecEffect s i t := by
  by_cases hwf : i.WellFormed
  · exact exec_cases_of_wellFormed hwf h
  · rw [exec_illformed hwf] at h
    cases h
    exact .failed i _

/-! ## What each operation can write -/

/-- A byte can write the parser and the four receive counters (42_rx_parser R151 to R157). -/
theorem RxTransition.frame {b : Byte} {s u : State} {f : Option Frame} (h : RxTransition b s u f) :
    u = { s with
      pState := u.pState, hdr := u.hdr, hdrCnt := u.hdrCnt, pay := u.pay, payCnt := u.payCnt
      pLen := u.pLen, crcLo := u.crcLo, pCrc := u.pCrc
      stats := { s.stats with
        bytesRx := u.stats.bytesRx, framesOk := u.stats.framesOk
        framesBadCrc := u.stats.framesBadCrc, framingErr := u.stats.framingErr } } := by
  cases h <;> rfl

/-- A chunk can write the two runs and the latch (43_vad R184, R185). -/
theorem State.vadAfter_frame (s : State) (xs : List Sample) :
    (s.vadAfter xs).1 = { s with
      posRun := (s.vadAfter xs).1.posRun, negRun := (s.vadAfter xs).1.negRun
      latched := (s.vadAfter xs).1.latched } := by
  simp only [State.vadAfter, State.flip, State.updateRuns]
  split_ifs <;> rfl

/-- Refilling a buffer can write that buffer (44_audio_ring R205). -/
theorem State.setObuf_frame (s : State) (b : Fin 2) (xs : List Sample) :
    s.setObuf b xs = { s with
      obuf0 := (s.setObuf b xs).obuf0, obuf1 := (s.setObuf b xs).obuf1 } := by
  unfold State.setObuf
  split <;> rfl

/-- BUF_COMPLETE can write the buffers, `active`, the read cursor and UNDERRUN (44_audio_ring R205). -/
theorem State.swapRefill_frame (s : State) : s.swapRefill = { s with
    active := s.swapRefill.active, obuf0 := s.swapRefill.obuf0, obuf1 := s.swapRefill.obuf1
    rd := s.swapRefill.rd, stats := s.stats.set .underrun s.swapRefill.stats.underrun } := by
  simp only [State.swapRefill]
  rw [State.setObuf_frame, State.pull_frame]
  rfl

/-- CFG_WRITE can write the four configuration registers (45_control R231). -/
theorem State.setCfgReg_frame {s u : State} {x : BitVec 4} {v : Half} (h : s.setCfgReg x v = some u) :
    u = { s with
      vadThreshold := u.vadThreshold, vadPosCount := u.vadPosCount
      vadNegCount := u.vadNegCount, chunkSamples := u.chunkSamples } := by
  obtain ⟨-, rfl⟩ | ⟨-, rfl⟩ | ⟨-, rfl⟩ | ⟨-, rfl⟩ := State.setCfgReg_cases h <;> rfl

/-- Settles O11: each operation's effect is confined to the parts its frame lemma names. -/
theorem stateWrittenOnlyBy : Obligations.StateWrittenOnlyBy := by
  intro i s t h
  cases exec_cases h with
  | failed | crcInit | crcByte | crcRead | decodeFrame | cfgRead | statRead | statClear | softReset =>
    simp
  | encodeFrame => simp [Stats.set]
  | rxByte b u f hrx => rw [hrx.frame]; simp
  | vadChunk xs => rw [State.vadAfter_frame]; simp
  | ringPush xs => rw [State.push_frame]; simp [Stats.set]
  | ringPull n => rw [State.pull_frame]; simp [Stats.set]
  | bufComplete => rw [State.swapRefill_frame]; simp [Stats.set]
  | cfgWrite x v u hreg => rw [State.setCfgReg_frame hreg]; simp

end Sys2Proof.Machine
end

section
/-! PROOFS. The Stats counters (10_state R38): how far one goes up, and that only STAT_CLEAR lowers one. -/

namespace Sys2Proof.Machine

theorem State.count_get_self_toNat (s : State) (k : Counter) :
    ((s.count k).stats.get k).toNat = min ((s.stats.get k).toNat + 1) 0xFFFFFFFF := by
  simp only [State.count_stats, Stats.get_set_self, sat_toNat, Nat.reducePow, Nat.reduceSub]

theorem State.count_get_ne (s : State) {j k : Counter} (h : j ≠ k) :
    (s.count k).stats.get j = s.stats.get j := by
  rw [State.count_stats, Stats.get_set_ne _ _ h]

/-- No counter of `t` is below the same counter of `s`. -/
def Stats.Le (s t : Stats) : Prop := ∀ k, s.get k ≤ t.get k

theorem Stats.Le.refl (s : Stats) : s.Le s := fun _ => BitVec.le_refl _

theorem Stats.Le.trans {s t u : Stats} (hst : s.Le t) (htu : t.Le u) : s.Le u :=
  fun k => BitVec.le_trans (hst k) (htu k)

theorem State.stats_le_count (s : State) (k : Counter) : s.stats.Le (s.count k).stats := by
  intro j
  by_cases h : j = k
  · subst h
    rw [State.count_stats, Stats.get_set_self]
    exact le_sat_add _ 1
  · rw [State.count_get_ne s h]
    exact BitVec.le_refl _

theorem RxTransition.stats_le {b : Byte} {s u : State} {f : Option Frame}
    (h : RxTransition b s u f) : s.stats.Le u.stats := by
  have one := s.stats_le_count .bytesRx
  have two := fun k => one.trans ((s.count .bytesRx).stats_le_count k)
  cases h with
  | sof0Match | sof0Stay | sof1Match | headerMore | headerAccept | payload | crcLo => exact one
  | sof1Mismatch | headerOversize => exact two .framingErr
  | crcHiMatch => exact two .framesOk
  | crcHiMismatch => exact two .framesBadCrc

theorem State.stats_le_pushOne (s : State) (v : Sample) : s.stats.Le (s.pushOne v).stats := by
  unfold State.pushOne
  split
  · exact s.stats_le_count _
  · exact .refl _

theorem State.stats_le_push (xs : List Sample) (s : State) : s.stats.Le (s.push xs).stats := by
  induction xs generalizing s with
  | nil => exact .refl _
  | cons v vs ih => exact (s.stats_le_pushOne v).trans (ih _)

theorem State.stats_le_pullOne (s : State) : s.stats.Le s.pullOne.2.stats := by
  unfold State.pullOne
  split
  · exact s.stats_le_count _
  · exact .refl _

theorem State.stats_le_pull (n : Nat) (s : State) : s.stats.Le (s.pull n).2.stats := by
  induction n generalizing s with
  | zero => exact .refl _
  | succ n ih => exact s.stats_le_pullOne.trans (ih _)

theorem State.stats_le_swapRefill (s : State) : s.stats.Le s.swapRefill.stats := by
  have hpull := State.stats_le_pull s.cfg.outBufSamples { s with active := 1 - s.active }
  simp only [State.swapRefill]
  rw [State.setObuf_frame]
  exact hpull

/-- Every operation but a STAT_CLEAR that is well formed leaves each counter at least as high. -/
theorem exec_stats_le {i : Instr} {s t : State} (hi : i ≠ .statClear .none) (h : exec i s = .next t) :
    s.stats.Le t.stats := by
  cases exec_cases h with
  | failed | crcInit | crcByte | crcRead | decodeFrame | cfgRead | statRead | softReset => exact .refl _
  | encodeFrame => exact s.stats_le_count .framesSent
  | rxByte b u f hrx => exact hrx.stats_le
  | vadChunk xs => rw [State.vadAfter_frame]; exact .refl _
  | ringPush xs => exact s.stats_le_push xs
  | ringPull n => exact s.stats_le_pull n.toNat
  | bufComplete => exact s.stats_le_swapRefill
  | cfgWrite x v u hreg => rw [State.setCfgReg_frame hreg]; exact .refl _
  | statClear => exact absurd rfl hi

/-- Settles O18: `count` saturates one counter, and every operation only ever counts. -/
theorem countersSaturateAndNeverDecrease : Obligations.CountersSaturateAndNeverDecrease :=
  ⟨fun s k => ⟨s.count_get_self_toNat k, fun _ => s.count_get_ne⟩,
    fun _ _ _ hi h => exec_stats_le hi h⟩

end Sys2Proof.Machine
end

section
/-! PROOFS. The running CRC (10_state R26): each byte the parser stores goes into the CRC and into the
buffer it is the CRC of, and nothing but the parser touches either. -/

namespace Sys2Proof.Machine

/-- One byte more in the CRC is one step (40_crc R114). -/
theorem crc16_concat (bs : List Byte) (b : Byte) : crc16 (bs ++ [b]) = crcStep (crc16 bs) b := by
  simp only [crc16, List.foldl_append, List.foldl_cons, List.foldl_nil]

/-- Writing the next element extends the elements written so far. -/
theorem Memory.take_write_succ {w : Nat} {m : Memory w} (h : m.wf = true) (n : Nat) (v : BitVec w) :
    (m.write n v).take (n + 1) = m.take n ++ [v] := by
  have hbelow : (m.write n v).take n = m.take n :=
    List.map_congr_left fun i hi => Memory.read_write_ne h v (List.mem_range.mp hi).ne
  rw [Memory.take, List.range_succ, List.map_append, List.map_singleton,
    Memory.read_write_self h]
  exact congrArg (· ++ [v]) hbelow

/-- A parser that is hunting for a frame has received no part of one. -/
theorem State.crcInv_of_waitSof {s : State} (h : s.pState = .waitSof0 ∨ s.pState = .waitSof1) :
    s.CrcInv := by
  obtain h | h := h <;> simp [State.CrcInv, h]

/-- The running CRC and what it is the CRC of are in the parser's part of the state. -/
theorem State.CrcInv.congr {s t : State} (h : s.CrcInv) (hbuf : t.hdr = s.hdr ∧ t.pay = s.pay)
    (hparser : t.pState = s.pState ∧ t.hdrCnt = s.hdrCnt ∧ t.payCnt = s.payCnt ∧ t.pLen = s.pLen ∧
      t.crcLo = s.crcLo ∧ t.pCrc = s.pCrc) : t.CrcInv := by
  obtain ⟨hhdr, hpay⟩ := hbuf
  obtain ⟨hstate, hhdrCnt, hpayCnt, hpLen, -, hpCrc⟩ := hparser
  rw [State.CrcInv, hhdr, hpay, hstate, hhdrCnt, hpayCnt, hpLen, hpCrc]
  exact h

/-- One byte keeps the running CRC, where the buffers are in canonical form. -/
theorem RxTransition.crcInv {b : Byte} {s u : State} {f : Option Frame} (h : RxTransition b s u f)
    (hhdr : s.hdr.wf = true) (hpay : s.pay.wf = true) (hs : s.CrcInv) : u.CrcInv := by
  obtain ⟨hheader, hbody⟩ := hs
  cases h with
  | sof0Match | sof1Mismatch | headerOversize | crcHiMatch | crcHiMismatch =>
    exact State.crcInv_of_waitSof (by simp)
  | sof0Stay hp => exact State.crcInv_of_waitSof (.inl hp)
  | sof1Match => exact ⟨fun _ => rfl, fun hp => by simp at hp⟩
  | headerMore hp hc =>
    refine ⟨fun _ => ?_, fun hp' => ?_⟩
    · show crcStep s.pCrc b = crc16 ((s.hdr.write s.hdrCnt b).take (s.hdrCnt + 1))
      rw [Memory.take_write_succ hhdr, crc16_concat, hheader hp]
    · simp [hp] at hp'
  | headerAccept hp hc L hL hfit =>
    refine ⟨fun hp' => ?_, fun _ => ⟨?_, hL⟩⟩
    · dsimp only at hp'
      split at hp' <;> cases hp'
    · show crcStep s.pCrc b = crc16 ((s.hdr.write 3 b).take (3 + 1) ++ [])
      rw [List.append_nil, Memory.take_write_succ hhdr, crc16_concat, hheader hp, hc]
  | payload hp hc =>
    obtain ⟨hcrc, hlen⟩ := hbody (.inl hp)
    refine ⟨fun hp' => ?_, fun _ => ⟨?_, hlen⟩⟩
    · dsimp only at hp'
      split at hp' <;> cases hp'
    · show crcStep s.pCrc b = crc16 (s.hdr.take 4 ++ (s.pay.write s.payCnt b).take (s.payCnt + 1))
      rw [Memory.take_write_succ hpay, ← List.append_assoc, crc16_concat, hcrc]
  | crcLo hp => exact ⟨fun hp' => by simp at hp', fun _ => hbody (.inr (.inl hp))⟩

/-- Every operation keeps the running CRC: RX_BYTE by its transitions, SOFT_RESET by going back to the
hunt, and no other operation writes the parser (O11). -/
theorem exec_crcInv {i : Instr} {s t : State} (hmem : s.MemInv) (hs : s.CrcInv)
    (h : exec i s = .next t) : t.CrcInv := by
  obtain ⟨-, hbuf, hparser, -⟩ := stateWrittenOnlyBy i s t h
  obtain ⟨⟨hhdr, -⟩, ⟨hpay, -⟩, -⟩ := hmem
  cases exec_cases h with
  | rxByte b u f hrx => exact (hrx.crcInv hhdr hpay hs : u.CrcInv)
  | softReset => exact State.crcInv_of_waitSof (.inl rfl)
  | failed => exact hs
  | _ => exact hs.congr (hbuf nofun) (hparser nofun nofun)

/-- A command that does not decode leaves all but the response; any other is an operation. -/
theorem issue_crcInv {c : Command} {s t : State} (hmem : s.MemInv) (hs : s.CrcInv)
    (h : issue c s = .next t) : t.CrcInv := by
  cases hd : decode c with
  | error e =>
    rw [issue_of_decode_error hd] at h
    cases h
    exact hs
  | ok i => exact exec_crcInv hmem hs (issue_of_decode_ok hd s ▸ h)

/-- Settles O17: an idle step changes nothing, any other issues one command. -/
theorem runningCrcKept : Obligations.RunningCrcKept := by
  intro s t hinv hs h
  obtain ⟨-, -, -, hmem, -⟩ := hinv
  cases hp : s.pending with
  | nil =>
    rw [step_of_pending_nil hp] at h
    cases h
    exact hs
  | cons c cs =>
    rw [step_of_pending_cons hp] at h
    exact issue_crcInv (s := { s with pending := cs }) hmem hs h

end Sys2Proof.Machine
end

section
/-! PROOFS. The queue and the last response (log entries 1 and 2): no operation reads either, and none
writes the queue, so that a run over the queue is the fold of its commands (20_memory R70). -/

namespace Sys2Proof.Machine

/-- The state with the queue and the last response replaced. -/
def State.withPort (s : State) (q : List Command) (r : Option Response) : State :=
  { s with pending := q, resp := r }

/-- The state with the queue replaced. -/
def State.withQueue (s : State) (q : List Command) : State := { s with pending := q }

/-! ## What the operations are made of -/

section
variable (s : State) (q : List Command) (r : Option Response)

@[simp] theorem State.withPort_cfg : (s.withPort q r).cfg = s.cfg := rfl
@[simp] theorem State.withPort_pState : (s.withPort q r).pState = s.pState := rfl
@[simp] theorem State.withPort_cfgReg (x : BitVec 4) : (s.withPort q r).cfgReg x = s.cfgReg x := rfl

theorem State.pushOne_withPort (v : Sample) :
    (s.withPort q r).pushOne v = (s.pushOne v).withPort q r := by
  unfold State.pushOne
  rw [apply_ite (State.withPort · q r)]
  rfl

theorem State.push_withPort (xs : List Sample) :
    (s.withPort q r).push xs = (s.push xs).withPort q r := by
  induction xs generalizing s with
  | nil => rfl
  | cons v vs ih => simp only [State.push, State.pushOne_withPort, ih]

theorem State.pullOne_withPort :
    (s.withPort q r).pullOne = s.pullOne.map id (State.withPort · q r) := by
  unfold State.pullOne
  rw [apply_ite (Prod.map id (State.withPort · q r))]
  rfl

theorem State.pull_withPort (n : Nat) :
    (s.withPort q r).pull n = (s.pull n).map id (State.withPort · q r) := by
  induction n generalizing s with
  | zero => rfl
  | succ n ih => simp only [State.pull, State.pullOne_withPort, Prod.map, id, ih]

theorem State.setObuf_withPort (b : Fin 2) (xs : List Sample) :
    (s.withPort q r).setObuf b xs = (s.setObuf b xs).withPort q r := by
  unfold State.setObuf
  rw [apply_ite (State.withPort · q r)]
  rfl

theorem State.swapRefill_withPort : (s.withPort q r).swapRefill = s.swapRefill.withPort q r := by
  have hpull := State.pull_withPort { s with active := 1 - s.active } q r s.cfg.outBufSamples
  unfold State.swapRefill
  rw [← State.setObuf_withPort]
  exact congrArg (fun p => p.2.setObuf (1 - (1 - s.active)) p.1) hpull

theorem State.updateRuns_withPort (voice : Bool) :
    (s.withPort q r).updateRuns voice = (s.updateRuns voice).withPort q r := by
  cases voice <;> rfl

theorem State.flip_withPort :
    (s.withPort q r).flip = s.flip.map (State.withPort · q r) id := by
  unfold State.flip
  rw [apply_ite (Prod.map (State.withPort · q r) id), apply_ite (Prod.map (State.withPort · q r) id)]
  rfl

theorem State.vadAfter_withPort (xs : List Sample) :
    (s.withPort q r).vadAfter xs = (s.vadAfter xs).map (State.withPort · q r) id := by
  unfold State.vadAfter
  rw [← State.flip_withPort, ← State.updateRuns_withPort]
  rfl

theorem State.setCfgReg_withPort (x : BitVec 4) (v : Half) :
    (s.withPort q r).setCfgReg x v = (s.setCfgReg x v).map (State.withPort · q r) := by
  unfold State.setCfgReg
  split <;> rfl

/-! ## The parser -/

/-- What one byte does to the parser, with the queue and the last response of the state replaced. -/
def RxOutcome.withPort (o : RxOutcome) (q : List Command) (r : Option Response) : RxOutcome :=
  o.map (Prod.map (State.withPort · q r) id)

theorem rxWaitSof0_withPort (b : Byte) :
    rxWaitSof0 b (s.withPort q r) = (rxWaitSof0 b s).withPort q r := by
  unfold rxWaitSof0
  rw [apply_ite (RxOutcome.withPort · q r)]
  rfl

theorem rxWaitSof1_withPort (b : Byte) :
    rxWaitSof1 b (s.withPort q r) = (rxWaitSof1 b s).withPort q r := by
  unfold rxWaitSof1
  rw [apply_ite (RxOutcome.withPort · q r)]
  rfl

theorem rxHeaderEnd_withPort : rxHeaderEnd (s.withPort q r) = (rxHeaderEnd s).withPort q r := by
  unfold rxHeaderEnd
  extract_lets
  rw [apply_ite (State.withPort · q r)]
  rfl

theorem rxHeader_withPort (b : Byte) :
    rxHeader b (s.withPort q r) = (rxHeader b s).withPort q r := by
  have hend := rxHeaderEnd_withPort { s.storeHdr b with pCrc := crcStep s.pCrc b } q r
  unfold rxHeader
  rw [apply_ite (RxOutcome.withPort · q r)]
  extract_lets
  rw [apply_ite (RxOutcome.withPort · q r)]
  refine if_congr Iff.rfl rfl (if_congr Iff.rfl ?_ rfl)
  exact congrArg (fun u => Except.ok (u, none)) hend

theorem rxPayload_withPort (b : Byte) :
    rxPayload b (s.withPort q r) = (rxPayload b s).withPort q r := by
  unfold rxPayload
  rw [apply_ite (RxOutcome.withPort · q r)]
  extract_lets
  rw [apply_ite (RxOutcome.withPort · q r)]
  rfl

theorem rxCrcHi_withPort (b : Byte) :
    rxCrcHi b (s.withPort q r) = (rxCrcHi b s).withPort q r := by
  unfold rxCrcHi
  rw [apply_ite (RxOutcome.withPort · q r), apply_ite (RxOutcome.withPort · q r)]
  rfl

theorem rxStep_withPort (b : Byte) :
    rxStep b (s.withPort q r) = (rxStep b s).withPort q r := by
  unfold rxStep
  rw [State.withPort_pState]
  cases s.pState with
  | waitSof0 => exact rxWaitSof0_withPort (s.count .bytesRx) q r b
  | waitSof1 => exact rxWaitSof1_withPort (s.count .bytesRx) q r b
  | header => exact rxHeader_withPort (s.count .bytesRx) q r b
  | payload => exact rxPayload_withPort (s.count .bytesRx) q r b
  | crcLo => rfl
  | crcHi => exact rxCrcHi_withPort (s.count .bytesRx) q r b

/-! ## The operations -/

theorem withNone_withPort (d : Data) {k k' : Result} (h : k' = mapNext (State.withQueue · q) k) :
    withNone d (s.withPort q r) k' = mapNext (State.withQueue · q) (withNone d s k) := by
  cases d with
  | none => exact h
  | bytes | samples => rfl

theorem withBytes_withPort (d : Data) {k k' : List Byte → Result}
    (h : ∀ bs, k' bs = mapNext (State.withQueue · q) (k bs)) :
    withBytes d (s.withPort q r) k' = mapNext (State.withQueue · q) (withBytes d s k) := by
  cases d with
  | bytes bs => exact h bs
  | none | samples => rfl

theorem withSamples_withPort (d : Data) {k k' : List Sample → Result}
    (h : ∀ xs, k' xs = mapNext (State.withQueue · q) (k xs)) :
    withSamples d (s.withPort q r) k' = mapNext (State.withQueue · q) (withSamples d s k) := by
  cases d with
  | samples xs => exact h xs
  | none | bytes => rfl

/-- No operation reads the queue or the last response, and none writes the queue. -/
theorem exec_withPort (i : Instr) :
    exec i (s.withPort q r) = mapNext (State.withQueue · q) (exec i s) := by
  cases i with
  | crcInit d => exact withNone_withPort s q r d rfl
  | crcByte b d => exact withNone_withPort s q r d rfl
  | crcRead d => exact withNone_withPort s q r d rfl
  | encodeFrame ty sq d =>
    refine withBytes_withPort s q r d fun p => ?_
    rw [apply_ite (mapNext _)]
    rfl
  | decodeFrame d =>
    refine withBytes_withPort s q r d fun F => ?_
    rw [State.withPort_cfg]
    cases decodeFrameBytes s.cfg F <;> rfl
  | rxByte b d =>
    refine withNone_withPort s q r d ?_
    rw [rxStep_withPort]
    obtain e | ⟨u, _ | f⟩ := rxStep b s <;> rfl
  | vadChunk d =>
    refine withSamples_withPort s q r d fun xs => ?_
    have hafter := State.vadAfter_withPort s q r xs
    simp only [State.vadAfter] at hafter
    rw [apply_ite (mapNext _), hafter]
    obtain ⟨u, _ | ⟨l, run⟩⟩ := (s.updateRuns (isVoice s xs)).flip <;> rfl
  | ringPush d =>
    refine withSamples_withPort s q r d fun xs => ?_
    rw [apply_ite (mapNext _), State.push_withPort]
    rfl
  | ringPull n d =>
    refine withNone_withPort s q r d ?_
    rw [apply_ite (mapNext _), State.pull_withPort]
    rfl
  | bufComplete d =>
    refine withNone_withPort s q r d ?_
    rw [apply_ite (mapNext _), State.swapRefill_withPort]
    rfl
  | cfgRead x d =>
    refine withNone_withPort s q r d ?_
    rw [State.withPort_cfgReg]
    cases s.cfgReg x <;> rfl
  | cfgWrite x v d =>
    refine withNone_withPort s q r d ?_
    rw [State.setCfgReg_withPort]
    cases s.setCfgReg x v <;> rfl
  | statRead x d =>
    refine withNone_withPort s q r d ?_
    cases statAt x <;> rfl
  | statClear d => exact withNone_withPort s q r d rfl
  | softReset d => exact withNone_withPort s q r d rfl

/-! ## Runs over the queue -/

/-- Issuing a command, legal or not, neither reads nor writes the queue. -/
theorem issue_withQueue (c : Command) :
    issue c (s.withQueue q) = mapNext (State.withQueue · q) (issue c s) := by
  unfold issue
  cases decode c with
  | ok i => exact exec_withPort s q s.resp i
  | error e => rfl

theorem step_withQueue_cons (c : Command) :
    step (s.withQueue (c :: q)) = mapNext (State.withQueue · q) (issue c s) :=
  issue_withQueue s q c

/-- A run of as many steps as the queue has commands in front of `rest` is those commands issued in order. -/
theorem run_withQueue_append (cs rest : List Command) (s : State) :
    (Sys2Proof.core.run cs.length (s.withQueue (cs ++ rest)) : Result) =
      mapNext (State.withQueue · rest) (issueAll cs (s.withQueue [])) := by
  induction cs generalizing s with
  | nil => rfl
  | cons c cs ih =>
    have hstep : Sys2Proof.core.step (s.withQueue (c :: cs ++ rest)) = _ :=
      step_withQueue_cons s (cs ++ rest) c
    simp only [List.length_cons, Host.Core.run, hstep, issueAll, issue_withQueue]
    cases issue c s with
    | next t => exact ih t
    | fault e => rfl
    | refused e => rfl

end

/-- Settles O6: each step issues one command, and issuing it neither reads nor writes the queue. -/
theorem runIsLeftFold : Obligations.RunIsLeftFold :=
  fun cs rest s => run_withQueue_append cs rest s

end Sys2Proof.Machine
end

section
/-! PROOFS. Operations issued twice (20_memory R68). Since no operation reads the last response, one that has
written nothing else does the same again. -/

namespace Sys2Proof.Machine

/-- An operation that has written nothing but the response does the same again. -/
theorem exec_again_of_writes_resp {i : Instr} {s : State} {r : Option Response}
    (h : exec i s = .next { s with resp := r }) :
    exec i { s with resp := r } = .next { s with resp := r } := by
  have hport := exec_withPort s s.pending r i
  rw [h] at hport
  exact hport

/-- A register that holds the value already is left as it is. -/
theorem State.setCfgReg_again {s u : State} {x : BitVec 4} {v : Half}
    (h : s.setCfgReg x v = some u) : u.setCfgReg x v = some u := by
  obtain ⟨rfl, rfl⟩ | ⟨rfl, rfl⟩ | ⟨rfl, rfl⟩ | ⟨rfl, rfl⟩ := State.setCfgReg_cases h <;> rfl

theorem exec_cfgWrite_of_setCfgReg {s u : State} {x : BitVec 4} {v : Half}
    (h : s.setCfgReg x v = some u) : exec (.cfgWrite x v .none) s = .next (u.okWith 0 .none) := by
  simp only [exec, execCfgWrite, withNone_none, h, State.respond_eq]

/-- Settles O19: the reading operations and the failed ones write the response alone, and the others write
values that do not depend on what they overwrite. -/
theorem idempotentOperations : Obligations.IdempotentOperations := by
  intro i s t h hi
  suffices again : exec i t = .next t from ⟨t, again, rfl⟩
  cases exec_cases h with
  | failed | crcRead | decodeFrame | cfgRead | statRead => exact exec_again_of_writes_resp h
  | crcInit | statClear | softReset => rfl
  | cfgWrite x v u hreg =>
    exact exec_again_of_writes_resp (exec_cfgWrite_of_setCfgReg (State.setCfgReg_again hreg))
  | crcByte | encodeFrame | rxByte | vadChunk | ringPush | ringPull | bufComplete => simp at hi

end Sys2Proof.Machine
end

section
/-! PROOFS. Samples from bytes (20_memory R64). -/

namespace Sys2Proof.Machine

theorem pcm16le_toNat (lo hi : Byte) : (pcm16le lo hi).toNat = lo.toNat + 256 * hi.toNat :=
  joinLe16_toNat lo hi

theorem getLsbD_seven_eq_decide (b : Byte) : b.getLsbD 7 = decide (128 ≤ b.toNat) :=
  (BitVec.msb_eq_getLsbD_last b).symm.trans (BitVec.msb_eq_decide b)

/-- Settles O59: the sample is negative exactly when its high byte is 128 or more. -/
theorem pcmConversion : Obligations.PcmConversion := by
  refine ⟨fun lo hi => ?_, by decide, by decide⟩
  have hlo := lo.isLt
  rw [BitVec.toInt_eq_toNat_cond, pcm16le_toNat, getLsbD_seven_eq_decide]
  by_cases hneg : 128 ≤ hi.toNat
  · rw [if_neg (by omega), if_pos (decide_eq_true hneg)]
    omega
  · rw [if_pos (by omega), if_neg (by simpa using hneg)]
    omega

end Sys2Proof.Machine
end

section
/-! PROOFS. The command word both ways (30_encoding R86, R90 to R92): the decoder undoes the encoder, what
decodes is an encoding, and the legal commands are the encodings of the well-formed operations. -/

namespace Sys2Proof.Machine

/-! ## Decoding an encoding -/

theorem decodeFields_fields (i : Instr) : decodeFields i.fields i.data = .ok i := by
  cases i with
  | crcInit | crcRead | decodeFrame | vadChunk | ringPush | bufComplete | statClear | softReset => rfl
  | crcByte | encodeFrame | rxByte | cfgRead | statRead => rfl
  | ringPull n d => exact congrArg (fun v => Except.ok (Instr.ringPull v d)) (joinLe16_extract n)
  | cfgWrite x v d => exact congrArg (fun u => Except.ok (Instr.cfgWrite x u d)) (joinLe16_extract v)

/-- Settles O1: the decoder reads the fields the encoder wrote, and a 16-bit operand is its two bytes. -/
theorem decodeOfEncode : Obligations.DecodeOfEncode := by
  intro i
  rw [encode, decode_toWord, decodeFields_fields]

theorem decode_of_encode_eq {i : Instr} {c : Command} (h : encode i = c) : decode c = .ok i :=
  h ▸ decodeOfEncode i

/-- Settles O4: each of the words is the encoding of its operation. -/
theorem specWordsDecode : Obligations.SpecWordsDecode :=
  ⟨decode_of_encode_eq rfl, decode_of_encode_eq rfl, decode_of_encode_eq rfl, decode_of_encode_eq rfl,
    decode_of_encode_eq rfl, decode_of_encode_eq rfl, decode_of_encode_eq rfl⟩

/-- The all-zero word has operation code 0. -/
theorem decode_zero (d : Data) : decode ⟨0#32, d⟩ = .error .illegalOp := by
  have hword : 0#32 = Fields.toWord ⟨0, 0, 0, 0, 0⟩ := by decide
  rw [hword, decode_toWord]
  rfl

/-! ## Encoding what was decoded -/

theorem requireZero_eq_ok {zero : Bool} {i j : Instr} :
    requireZero zero i = .ok j ↔ zero = true ∧ i = j := by
  cases zero <;> simp [requireZero]

/-- The fields a word decodes from are those of the operation: an arm of the opcode map fixes `op`, tests
the reserved fields for 0, and hands every other field to the operation. -/
theorem fields_of_decodeFields {f : Fields} {d : Data} {i : Instr} (h : decodeFields f d = .ok i) :
    i.fields = f ∧ i.data = d := by
  obtain ⟨op, idx, b8, hi, lo⟩ := f
  unfold decodeFields at h
  split at h
  case h_16 => cases h
  all_goals
    rename_i hop
    obtain ⟨hzero, rfl⟩ := requireZero_eq_ok.mp h
    simp only [Bool.and_eq_true, beq_iff_eq] at hzero
    simp [Instr.fields, Instr.data, hzero, ← BitVec.toNat_inj, hop]

/-- Settles O2: the fields the operation came from make up the word again. -/
theorem encodeOfDecode : Obligations.EncodeOfDecode := by
  intro c i h
  obtain ⟨hfields, hdata⟩ := fields_of_decodeFields h
  rw [encode, hfields, hdata, Fields.toWord_ofWord]

/-! ## The opcode table -/

/-- Every operation's word and data kind are those of a row. -/
theorem matchesTable (i : Instr) : Laws.MatchesTable.Statement i := by
  cases i with
  | crcInit d => exact Laws.MatchesTable.crcInit d
  | crcByte b d => exact Laws.MatchesTable.crcByte b d
  | crcRead d => exact Laws.MatchesTable.crcRead d
  | encodeFrame ty sq d => exact Laws.MatchesTable.encodeFrame ty sq d
  | decodeFrame d => exact Laws.MatchesTable.decodeFrame d
  | rxByte b d => exact Laws.MatchesTable.rxByte b d
  | vadChunk d => exact Laws.MatchesTable.vadChunk d
  | ringPush d => exact Laws.MatchesTable.ringPush d
  | ringPull n d => exact Laws.MatchesTable.ringPull n d
  | bufComplete d => exact Laws.MatchesTable.bufComplete d
  | cfgRead x d => exact Laws.MatchesTable.cfgRead x d
  | cfgWrite x v d => exact Laws.MatchesTable.cfgWrite x v d
  | statRead x d => exact Laws.MatchesTable.statRead x d
  | statClear d => exact Laws.MatchesTable.statClear d
  | softReset d => exact Laws.MatchesTable.softReset d

/-- The commands of a row of the opcode table are encodings of well-formed operations. -/
def TableRow.OnlyEncodings (r : TableRow) : Prop :=
  ∀ c : Command, c.word &&& r.mask = r.pattern → c.data.kind = r.kind →
    ∃ i : Instr, i.WellFormed ∧ encode i = c

/-- A row with its mask and pattern given by their fields: a word that agrees with the pattern under the
mask is the word of the operation `mk` made of its fields. -/
theorem TableRow.OnlyEncodings.of_fields {r : TableRow} (m p : Fields) (mk : Fields → Data → Instr)
    (hfields : ∀ op idx b8 hi lo d, op &&& m.op = p.op → idx &&& m.idx = p.idx →
      b8 &&& m.b8 = p.b8 → hi &&& m.immHi = p.immHi → lo &&& m.immLo = p.immLo →
      (mk ⟨op, idx, b8, hi, lo⟩ d).fields = ⟨op, idx, b8, hi, lo⟩)
    (hmask : r.mask = m.toWord := by decide) (hpattern : r.pattern = p.toWord := by decide)
    (hkind : ∀ f d, (mk f d).dataKind = r.kind := by intros; rfl)
    (hdata : ∀ f d, (mk f d).data = d := by intros; rfl) : r.OnlyEncodings := by
  rintro ⟨w, d⟩ hw hd
  obtain ⟨f, rfl⟩ : ∃ f : Fields, f.toWord = w := ⟨.ofWord w, Fields.toWord_ofWord w⟩
  rw [hmask, hpattern, Fields.toWord_and, Fields.toWord_inj] at hw
  subst hw
  refine ⟨mk f d, ?_, ?_⟩
  · rw [Instr.WellFormed, hdata, hkind]
    exact hd
  · rw [encode, hdata, hfields _ _ _ _ _ d rfl rfl rfl rfl rfl]

@[simp] theorem and_fifteen (x : BitVec 4) : x &&& 15#4 = x := BitVec.and_allOnes

@[simp] theorem and_byte_max (x : Byte) : x &&& 255#8 = x := BitVec.and_allOnes

/-- A legal word has the bits the row fixes, and the operation's operands are the bits it leaves free. -/
theorem opcodeTable_onlyEncodings : ∀ r ∈ opcodeTable, r.OnlyEncodings := by
  simp only [opcodeTable, List.forall_mem_cons]
  refine ⟨?crcInit, ?crcByte, ?crcRead, ?encodeFrame, ?decodeFrame, ?rxByte, ?vadChunk, ?ringPush,
    ?ringPull, ?bufComplete, ?cfgRead, ?cfgWrite, ?statRead, ?statClear, ?softReset, by simp⟩
  case crcInit =>
    exact .of_fields ⟨15, 15, 255, 255, 255⟩ ⟨1, 0, 0, 0, 0⟩ (fun _ => .crcInit)
      (by simp +contextual [Instr.fields])
  case crcByte =>
    exact .of_fields ⟨15, 15, 255, 255, 0⟩ ⟨2, 0, 0, 0, 0⟩ (fun f => .crcByte f.immLo)
      (by simp +contextual [Instr.fields])
  case crcRead =>
    exact .of_fields ⟨15, 15, 255, 255, 255⟩ ⟨3, 0, 0, 0, 0⟩ (fun _ => .crcRead)
      (by simp +contextual [Instr.fields])
  case encodeFrame =>
    exact .of_fields ⟨15, 15, 0, 255, 0⟩ ⟨4, 0, 0, 0, 0⟩ (fun f => .encodeFrame f.b8 f.immLo)
      (by simp +contextual [Instr.fields])
  case decodeFrame =>
    exact .of_fields ⟨15, 15, 255, 255, 255⟩ ⟨5, 0, 0, 0, 0⟩ (fun _ => .decodeFrame)
      (by simp +contextual [Instr.fields])
  case rxByte =>
    exact .of_fields ⟨15, 15, 255, 255, 0⟩ ⟨6, 0, 0, 0, 0⟩ (fun f => .rxByte f.immLo)
      (by simp +contextual [Instr.fields])
  case vadChunk =>
    exact .of_fields ⟨15, 15, 255, 255, 255⟩ ⟨7, 0, 0, 0, 0⟩ (fun _ => .vadChunk)
      (by simp +contextual [Instr.fields])
  case ringPush =>
    exact .of_fields ⟨15, 15, 255, 255, 255⟩ ⟨8, 0, 0, 0, 0⟩ (fun _ => .ringPush)
      (by simp +contextual [Instr.fields])
  case ringPull =>
    exact .of_fields ⟨15, 15, 255, 0, 0⟩ ⟨9, 0, 0, 0, 0⟩ (fun f => .ringPull f.imm16)
      (by simp +contextual [Instr.fields])
  case bufComplete =>
    exact .of_fields ⟨15, 15, 255, 255, 255⟩ ⟨10, 0, 0, 0, 0⟩ (fun _ => .bufComplete)
      (by simp +contextual [Instr.fields])
  case cfgRead =>
    exact .of_fields ⟨15, 0, 255, 255, 255⟩ ⟨11, 0, 0, 0, 0⟩ (fun f => .cfgRead f.idx)
      (by simp +contextual [Instr.fields])
  case cfgWrite =>
    exact .of_fields ⟨15, 0, 255, 0, 0⟩ ⟨12, 0, 0, 0, 0⟩ (fun f => .cfgWrite f.idx f.imm16)
      (by simp +contextual [Instr.fields])
  case statRead =>
    exact .of_fields ⟨15, 0, 255, 255, 255⟩ ⟨13, 0, 0, 0, 0⟩ (fun f => .statRead f.idx)
      (by simp +contextual [Instr.fields])
  case statClear =>
    exact .of_fields ⟨15, 15, 255, 255, 255⟩ ⟨14, 0, 0, 0, 0⟩ (fun _ => .statClear)
      (by simp +contextual [Instr.fields])
  case softReset =>
    exact .of_fields ⟨15, 15, 255, 255, 255⟩ ⟨15, 0, 0, 0, 0⟩ (fun _ => .softReset)
      (by simp +contextual [Instr.fields])

/-- The legal commands of R92 are the encodings of the well-formed operations. -/
theorem legal_iff_encode {c : Command} : Legal c ↔ ∃ i : Instr, i.WellFormed ∧ encode i = c := by
  constructor
  · rintro ⟨r, hr, hword, hkind⟩
    exact opcodeTable_onlyEncodings r hr c hword hkind
  · rintro ⟨i, hwf, rfl⟩
    obtain ⟨r, hr, hword, hkind⟩ := matchesTable i
    exact ⟨r, hr, hword, hwf.trans hkind⟩

theorem issue_of_not_legal {c : Command} (h : ¬ Legal c) (s : State) :
    issue c s = .next (s.failedWith .illegalCmd) := by
  cases hdec : decode c with
  | error e => exact issue_of_decode_error hdec s
  | ok i =>
    have hwf : ¬ i.WellFormed := fun hwf => h (legal_iff_encode.mpr ⟨i, hwf, encodeOfDecode c i hdec⟩)
    rw [issue_of_decode_ok hdec, exec_illformed hwf]

/-- Settles O3: an illegal word does not decode, or decodes to an operation with the wrong data kind; a
legal command is the encoding of a well-formed operation, which the decoder gives back. -/
theorem illegalCommandsFail : Obligations.IllegalCommandsFail := by
  refine ⟨fun c s => (issue_of_not_legal · s), fun d s => ?zero, fun c s hlegal => ?legal⟩
  case zero => exact issue_of_decode_error (decode_zero d) s
  case legal =>
    obtain ⟨i, hwf, henc⟩ := legal_iff_encode.mp hlegal
    have hdec := decode_of_encode_eq henc
    exact ⟨i, hdec, hwf, issue_of_decode_ok hdec s⟩

end Sys2Proof.Machine
end

section
/-! PROOFS. A failed operation (30_encoding R88, 60_exceptions R262): of all the effects only the failure
carries a status other than OK. -/

namespace Sys2Proof.Machine

theorem rxResponse_status (f : Option Frame) : (rxResponse f).status = .ok := by
  cases f <;> rfl

theorem vadResponse_status (flip : Option (Bool × Half)) : (vadResponse flip).status = .ok := by
  cases flip <;> rfl

/-- An effect either answers OK or is a failure, which changes nothing but the response. -/
theorem ExecEffect.ok_or_failed {i : Instr} {s t : State} (h : ExecEffect s i t) :
    (∃ r, t.resp = some r ∧ r.status = .ok) ∨ ∃ e, t = s.failedWith e := by
  cases h with
  | failed _ e => exact .inr ⟨e, rfl⟩
  | rxByte b u f => exact .inl ⟨_, rfl, rxResponse_status f⟩
  | vadChunk xs => exact .inl ⟨_, rfl, vadResponse_status (s.vadAfter xs).2⟩
  | crcInit | crcByte | crcRead | encodeFrame | decodeFrame | ringPush | ringPull | bufComplete
  | cfgRead | cfgWrite | statRead | statClear | softReset => exact .inl ⟨_, rfl, rfl⟩

/-- Settles O8: a state whose response is not OK is a failure's, and its response names the failure. -/
theorem failedOperationsChangeNothing : Obligations.FailedOperationsChangeNothing := by
  intro i s t r h hr hstatus
  obtain ⟨r', hr', hok⟩ | ⟨e, rfl⟩ := (exec_cases h).ok_or_failed
  · obtain rfl : r = r' := Option.some.inj (hr.symm.trans hr')
    exact absurd hok hstatus
  · obtain rfl : _ = r := Option.some.inj hr
    rfl

end Sys2Proof.Machine
end

section
/-! PROOFS. Where the fields stand in the bytes of a frame (30_encoding R80, R82) and in the packed response
values (R89). -/

namespace Sys2Proof.Machine

/-! ## The bytes of a frame -/

@[simp] theorem crcDomain_length (f : Frame) : (crcDomain f).length = 4 + f.payload.length := by
  simp only [crcDomain, List.length_append, List.length_cons, List.length_nil, le16_length]

theorem frameBytes_length (c : Config) (f : Frame) :
    (frameBytes c f).length = 8 + f.payload.length := by
  simp only [frameBytes, List.length_append, List.length_cons, List.length_nil, le16_length,
    crcDomain_length]
  omega

/-- The bytes of a frame: six, then the payload, then two (R80). -/
theorem frameBytes_eq (c : Config) (f : Frame) :
    frameBytes c f = c.sof0 :: c.sof1 :: f.ty :: f.sq ::
      (BitVec.ofNat 16 f.payload.length).extractLsb' 0 8 ::
      (BitVec.ofNat 16 f.payload.length).extractLsb' 8 8 ::
      (f.payload ++ le16 (crc16 (crcDomain f))) := rfl

/-- The bytes from the payload on. -/
theorem frameBytes_getD_six_add (c : Config) (f : Frame) (k : Nat) :
    (frameBytes c f).getD (6 + k) 0 = (f.payload ++ le16 (crc16 (crcDomain f))).getD k 0 := by
  rw [Nat.add_comm, frameBytes_eq]
  rfl

/-- The CRC domain is cut out of the frame by its offset and its length (R82). -/
theorem frameBytes_crcDomain (c : Config) (f : Frame) :
    ((frameBytes c f).drop 2).take (4 + f.payload.length) = crcDomain f :=
  List.take_left' (crcDomain_length f)

/-- Bytes 4 and 5 are the payload's length, which fits 16 bits. -/
theorem frameBytes_declaredLen (c : Config) (f : Frame) (h : f.payload.length ≤ maxPayload) :
    ((frameBytes c f).getD 4 0).toNat + 256 * ((frameBytes c f).getD 5 0).toNat =
      f.payload.length := by
  have hfit : f.payload.length < 2 ^ 16 := Nat.lt_of_le_of_lt h (by decide)
  rw [frameBytes_eq, ← joinLe16_toNat]
  calc
    _ = (BitVec.ofNat 16 f.payload.length).toNat := congrArg BitVec.toNat (joinLe16_extract _)
    _ = f.payload.length := by rw [BitVec.toNat_ofNat, Nat.mod_eq_of_lt hfit]

/-- Settles O26: the bytes before the payload stand in the definition; those from it on are the payload's
and the CRC's, at the offsets its length gives. -/
theorem frameLayout : Obligations.FrameLayout := by
  intro c f hlen
  have hdeclared := frameBytes_declaredLen c f hlen
  rw [frameBytes_crcDomain]
  refine ⟨frameBytes_length c f, rfl, rfl, rfl, rfl, hdeclared, ?lenHigh, fun k hk => ?payload,
    ?crcLow, ?crcHigh⟩
  case lenHigh =>
    rw [maxPayload] at hlen
    omega
  case payload => rw [frameBytes_getD_six_add, List.getD_append _ _ _ _ hk]
  case crcLow =>
    rw [frameBytes_getD_six_add, List.getD_append_right _ _ _ _ le_rfl, Nat.sub_self]
    rfl
  case crcHigh =>
    rw [show 7 + f.payload.length = 6 + (f.payload.length + 1) by omega, frameBytes_getD_six_add,
      List.getD_append_right _ _ _ _ (by omega), Nat.add_sub_cancel_left]
    rfl

/-! ## The packed response values -/

/-- A packed value holds its high part above the low half, as both packings of R89 do. -/
theorem extract_high_of_packed (high : Word) (low : Half) :
    ((high <<< 16) ||| low.zeroExtend 32).extractLsb' 16 16 = high.extractLsb' 0 16 := by
  refine BitVec.eq_of_getLsbD_eq fun i h => ?_
  have hi : 16 + i < 32 := by omega
  simp [h, hi, BitVec.getLsbD_eq_getElem (x := high) (i := i) (by omega)]

theorem extract_low_of_packed (high : Word) (low : Half) :
    ((high <<< 16) ||| low.zeroExtend 32).extractLsb' 0 16 = low := by
  refine BitVec.eq_of_getLsbD_eq fun i h => ?_
  have hi : i < 32 := by omega
  simp [h, hi]

theorem zeroExtend_shiftLeft_byte (b : Byte) :
    (b.zeroExtend 16 <<< 8).zeroExtend 32 = b.zeroExtend 32 <<< 8 := by
  have := b.isLt
  apply BitVec.eq_of_toNat_eq
  simp only [BitVec.truncate_eq_setWidth, BitVec.toNat_setWidth, BitVec.toNat_shiftLeft,
    Nat.shiftLeft_eq]
  omega

theorem joinLe16_zeroExtend (lo hi : Byte) :
    (joinLe16 lo hi).zeroExtend 32 = (hi.zeroExtend 32 <<< 8) ||| lo.zeroExtend 32 := by
  rw [joinLe16_eq, BitVec.or_comm]
  exact BitVec.setWidth_or.trans (congrArg₂ (· ||| ·) (zeroExtend_shiftLeft_byte hi)
    (BitVec.setWidth_setWidth (by decide)))

/-- The low half of FRAME's and DECODE's packing is `seq` and `type` as its two bytes. -/
theorem packFrame_eq (n : Nat) (ty sq : Byte) :
    packFrame n ty sq = (BitVec.ofNat 32 n <<< 16) ||| (joinLe16 sq ty).zeroExtend 32 := by
  rw [packFrame, BitVec.or_assoc, joinLe16_zeroExtend]

theorem packFrame_low (n : Nat) (ty sq : Byte) :
    (packFrame n ty sq).extractLsb' 0 16 = joinLe16 sq ty := by
  rw [packFrame_eq, extract_low_of_packed]

/-- Settles O32: both packings hold a high part above a low half, and in FRAME's and DECODE's the low half
is two bytes. -/
theorem packedResponseFields : Obligations.PackedResponseFields := by
  refine ⟨fun n ty sq hn => ⟨?len, ?ty, ?sq⟩, fun l run => ⟨?latch, extract_low_of_packed _ run⟩⟩
  case len =>
    rw [packFrame_eq, extract_high_of_packed, BitVec.extractLsb'_toNat, BitVec.toNat_ofNat]
    rw [maxPayload] at hn
    omega
  case ty =>
    rw [← BitVec.extractLsb'_extractLsb'_of_le (len' := 16) (by decide), packFrame_low, joinLe16_hi]
  case sq =>
    rw [← BitVec.extractLsb'_extractLsb'_of_le (len' := 16) (by decide), packFrame_low, joinLe16_lo]
  case latch =>
    rw [packVad, extract_high_of_packed]
    cases l <;> rfl

end Sys2Proof.Machine
end

section
/-! PROOFS. The assembler (30_encoding R95, R96): every line that assembles gives well-formed operations. -/

namespace Sys2Proof.Machine

/-- If the text assembled, its operations are well formed. -/
def GivesWellFormed (r : Except AsmError (List Instr)) : Prop :=
  ∀ is, r = .ok is → ∀ i ∈ is, i.WellFormed

namespace GivesWellFormed

theorem error (e : AsmError) : GivesWellFormed (.error e) := nofun

theorem ok {is : List Instr} (h : ∀ i ∈ is, i.WellFormed) : GivesWellFormed (.ok is) := by
  rintro _ ⟨⟩
  exact h

theorem single {i : Instr} (h : i.WellFormed) : GivesWellFormed (.ok [i]) :=
  ok (List.forall_mem_singleton.mpr h)

/-- Reading an operand fails, or what follows is told from the operand's value. -/
theorem bind {α : Type} {x : Except AsmError α} {f : α → Except AsmError (List Instr)}
    (h : ∀ a, GivesWellFormed (f a)) : GivesWellFormed (x >>= f) := by
  cases x with
  | error e => exact error e
  | ok a => exact h a

end GivesWellFormed

/-! ## The pseudo-operations (R96) -/

theorem rxBytesOps_wellFormed (bs : List Byte) : ∀ i ∈ rxBytesOps bs, i.WellFormed := by
  simp only [rxBytesOps, List.forall_mem_map]
  exact fun _ _ => rfl

theorem crc16Ops_wellFormed (bs : List Byte) : ∀ i ∈ crc16Ops bs, i.WellFormed := by
  simp only [crc16Ops, List.forall_mem_append, List.forall_mem_cons, List.forall_mem_map]
  exact ⟨⟨rfl, fun _ _ => rfl⟩, rfl, by simp⟩

theorem vadConfigOps_wellFormed (thr pos neg chunk : Half) :
    ∀ i ∈ vadConfigOps thr pos neg chunk, i.WellFormed := by
  simp only [vadConfigOps, List.forall_mem_cons]
  exact ⟨rfl, rfl, rfl, rfl, by simp⟩

/-! ## Lines -/

/-- Each mnemonic gives its operation the data kind it takes, whatever the operands' values. -/
theorem assembleOp_givesWellFormed (c : Config) (m : String) (ops : List Operand) :
    GivesWellFormed (assembleOp c m ops) := by
  unfold assembleOp
  split
  -- CRC_INIT, CRC_READ, BUF_COMPLETE, STAT_CLEAR, SOFT_RESET
  case h_1 | h_3 | h_10 | h_14 | h_15 => exact .single rfl
  -- CRC_BYTE, ENCODE, DECODE, RX_BYTE, VAD_CHUNK, RING_PUSH, RING_PULL, CFG_READ, STAT_READ
  case h_2 | h_4 | h_5 | h_6 | h_7 | h_8 | h_9 | h_11 | h_13 => exact .bind fun _ => .single rfl
  -- CFG_WRITE
  case h_12 => exact .bind fun _ => .bind fun _ => .single rfl
  -- CRC16
  case h_16 => exact .bind fun bs => .ok (crc16Ops_wellFormed bs)
  -- RX_BYTES
  case h_17 => exact .bind fun bs => .ok (rxBytesOps_wellFormed bs)
  -- RX_FRAME
  case h_18 =>
    refine .bind fun f => ?_
    split
    · exact .error _
    · exact .ok (rxBytesOps_wellFormed (frameBytes c f))
  -- VAD_CONFIG
  case h_19 =>
    exact .bind fun thr => .bind fun pos => .bind fun neg => .bind fun chunk =>
      .ok (vadConfigOps_wellFormed thr pos neg chunk)
  -- no operation or pseudo-operation
  case h_20 => exact .error _

theorem assembleLine_givesWellFormed (c : Config) (line : String) :
    GivesWellFormed (assembleLine c line) := by
  unfold assembleLine
  split
  · exact .ok (by simp)
  · split
    · exact assembleOp_givesWellFormed c _ _
    · exact .error _
  · exact .error _

/-- Settles O60: what assembles is well formed, and the encoding of a well-formed operation is legal. -/
theorem assembledOperationsAreLegal : Obligations.AssembledOperationsAreLegal := by
  intro c line is h i hi
  have hwf := assembleLine_givesWellFormed c line is h i hi
  exact ⟨hwf, legal_iff_encode.mpr ⟨i, hwf, rfl⟩⟩

end Sys2Proof.Machine
end

section
/-! PROOFS. Words written as an OR of operands, and the illegal forms of an operation code (30_encoding
R86, R90, R92): every row's mask holds the whole `op` field, and no two rows have one `op`. -/

namespace Sys2Proof

/-! ## Words from operands -/

/-- An OR acts field by field. -/
theorem Fields.toWord_or (f g : Fields) :
    f.toWord ||| g.toWord =
      Fields.toWord ⟨f.op ||| g.op, f.idx ||| g.idx, f.b8 ||| g.b8, f.immHi ||| g.immHi,
        f.immLo ||| g.immLo⟩ := by
  refine BitVec.eq_of_getLsbD_eq fun i _ => ?_
  simp only [BitVec.getLsbD_or, Fields.getLsbD_toWord]
  split_ifs <;> rfl

/-- A byte as a word is in the low byte of `imm16`. -/
theorem zeroExtend_byte_eq_toWord (b : Byte) : b.zeroExtend 32 = Fields.toWord ⟨0, 0, 0, 0, b⟩ := by
  refine BitVec.eq_of_getLsbD_eq fun i h => ?_
  rw [Fields.getLsbD_toWord]
  by_cases hlow : i < 8
  · simp [h, hlow]
  · simp [hlow, BitVec.getLsbD_of_ge b i (by omega)]

/-- The word of an operation whose one operand is a byte in `imm16[7:0]` (R91). -/
theorem Fields.toWord_or_zeroExtend (f : Fields) (h : f.immLo = 0) (b : Byte) :
    f.toWord ||| b.zeroExtend 32 = Fields.toWord { f with immLo := b } := by
  simp [zeroExtend_byte_eq_toWord, Fields.toWord_or, h]

end Sys2Proof

namespace Sys2Proof.Machine

/-- A word with the fields of an operation decodes to it. -/
theorem decode_of_fields {i : Instr} {w : Word} (f : Fields) (hi : i.fields = f) (hw : w = f.toWord) :
    decode ⟨w, i.data⟩ = .ok i :=
  decode_of_encode_eq (by rw [encode, hi, hw])

/-! ## The illegal forms of an operation code -/

theorem opcodeTable_mask_op : ∀ r ∈ opcodeTable, r.mask.extractLsb' 28 4 = 15#4 := by decide

theorem opcodeTable_op_injective :
    ∀ r ∈ opcodeTable, ∀ q ∈ opcodeTable,
      r.pattern.extractLsb' 28 4 = q.pattern.extractLsb' 28 4 → r = q := by decide

/-- A word that matches a row has the row's operation code. -/
theorem op_of_matches {r : TableRow} (hr : r ∈ opcodeTable) {w : Word} (h : w &&& r.mask = r.pattern) :
    r.pattern.extractLsb' 28 4 = w.extractLsb' 28 4 := by
  rw [← h, BitVec.extractLsb'_and, opcodeTable_mask_op r hr, and_fifteen]

/-- Of the commands with one operation code only those of its row of the table are legal (R92). -/
theorem illegalUnless_of_row {op : BitVec 4} {mask pattern : Word} {kind : DataKind} (mnemonic : String)
    (hrow : ⟨mnemonic, mask, pattern, kind⟩ ∈ opcodeTable := by decide)
    (hop : pattern.extractLsb' 28 4 = op := by decide) : IllegalUnless op mask pattern kind := by
  intro w d s hw hno
  refine issue_of_not_legal (fun ⟨r, hr, hword, hkind⟩ => hno ?_) s
  have hsame : r.pattern.extractLsb' 28 4 = pattern.extractLsb' 28 4 := by
    rw [op_of_matches hr hword, hw, hop]
  obtain rfl := opcodeTable_op_injective r hr _ hrow hsame
  exact ⟨hword, hkind⟩

end Sys2Proof.Machine
end

section
/-! PROOFS. The CRC unit (40_crc R110 to R114): the step, the function, and the three operations alone and
in the order in which they compute `crc16`. -/

namespace Sys2Proof.Machine

/-! ## The step and the function -/

/-- Settles O20: the accumulators after each number of shifts are the sequence. -/
theorem crcStepIsEightShifts : Obligations.CrcStepIsEightShifts := by
  intro acc b
  refine ⟨fun k => crcShift^[k] (acc ^^^ (b.zeroExtend 16 <<< 8)), rfl, fun k => ?_, rfl⟩
  simp only [Function.iterate_succ_apply', crcShift, BitVec.msb_eq_getLsbD_last]
  rfl

theorem crc16_append (a b : List Byte) : crc16 (a ++ b) = b.foldl crcStep (crc16 a) :=
  List.foldl_append

/-- The nine ASCII digits of R114's check string. -/
theorem crc16_check_string :
    crc16 [0x31, 0x32, 0x33, 0x34, 0x35, 0x36, 0x37, 0x38, 0x39] = 0x29B1#16 := by decide +kernel

/-- Settles O21: `crc16` is defined as the fold, and a fold over two sequences is two folds. -/
theorem crcFunction : Obligations.CrcFunction :=
  ⟨fun _ => rfl, rfl, crc16_check_string, crc16_append⟩

/-! ## The operations -/

theorem exec_crcInit (s : State) :
    exec (.crcInit .none) s = .next ({ s with crcAcc := 0xFFFF }.okWith 0 .none) := rfl

theorem exec_crcByte (b : Byte) (s : State) :
    exec (.crcByte b .none) s = .next ({ s with crcAcc := crcStep s.crcAcc b }.okWith 0 .none) := rfl

theorem exec_crcRead (s : State) :
    exec (.crcRead .none) s = .next (s.okWith (s.crcAcc.zeroExtend 32) .none) := rfl

theorem decode_crcInit (d : Data) : decode ⟨0x10000000#32, d⟩ = .ok (.crcInit d) :=
  decode_of_fields (i := .crcInit d) ⟨1, 0, 0, 0, 0⟩ rfl (by decide)

theorem decode_crcByte (b : Byte) (d : Data) :
    decode ⟨0x20000000#32 ||| b.zeroExtend 32, d⟩ = .ok (.crcByte b d) :=
  decode_of_fields (i := .crcByte b d) ⟨2, 0, 0, 0, b⟩ rfl
    (Fields.toWord_or_zeroExtend ⟨2, 0, 0, 0, 0⟩ rfl b)

theorem decode_crcRead (d : Data) : decode ⟨0x30000000#32, d⟩ = .ok (.crcRead d) :=
  decode_of_fields (i := .crcRead d) ⟨3, 0, 0, 0, 0⟩ rfl (by decide)

/-- Settles O22: the word is the encoding, and the rest of its operation code matches no row. -/
theorem crcInitOperation : Obligations.CrcInitOperation :=
  ⟨decode_crcInit, illegalUnless_of_row "CRC_INIT", exec_crcInit⟩

/-- Settles O23: as for CRC_INIT, with the byte in the low bits of the word. -/
theorem crcByteOperation : Obligations.CrcByteOperation :=
  ⟨decode_crcByte, illegalUnless_of_row "CRC_BYTE", exec_crcByte,
    by decide, by decide⟩

/-! ## The CRC of a sequence by operations -/

theorem runOps_cons_of_next {i : Instr} {s t : State} (h : exec i s = .next t) (is : List Instr) :
    runOps (i :: is) s = (runOps is t).map fun p => (p.1, t.resp.toList ++ p.2) := by
  simp only [runOps, h]
  cases runOps is t <;> rfl

/-- CRC_BYTE over a sequence and then CRC_READ, from any accumulator: the bytes are folded into it one by
one, each with a quiet response, and the read answers the result. -/
theorem runOps_crcBytes_crcRead (bs : List Byte) (s : State) :
    runOps (bs.map (.crcByte · .none) ++ [.crcRead .none]) s =
      some ({ s with crcAcc := bs.foldl crcStep s.crcAcc }.okWith
          ((bs.foldl crcStep s.crcAcc).zeroExtend 32) .none,
        List.replicate bs.length quiet ++
          [⟨.ok, (bs.foldl crcStep s.crcAcc).zeroExtend 32, .none, .none⟩]) := by
  induction bs generalizing s with
  | nil => rfl
  | cons b bs ih =>
    rw [List.map_cons, List.cons_append, runOps_cons_of_next (exec_crcByte b s), ih]
    rfl

/-- CRC_INIT makes the fold start from 0xFFFF. -/
theorem runOps_crc16Ops (bs : List Byte) (s : State) : runOps (crc16Ops bs) s =
    some ({ s with crcAcc := crc16 bs }.okWith ((crc16 bs).zeroExtend 32) .none,
      List.replicate (bs.length + 1) quiet ++ [⟨.ok, (crc16 bs).zeroExtend 32, .none, .none⟩]) := by
  rw [crc16Ops, List.cons_append, runOps_cons_of_next (exec_crcInit s), runOps_crcBytes_crcRead]
  rfl

/-- Settles O24: the operation reads the accumulator, and a run of the three operations leaves the fold
in it. -/
theorem crcReadOperation : Obligations.CrcReadOperation :=
  ⟨decode_crcRead, illegalUnless_of_row "CRC_READ", exec_crcRead, runOps_crc16Ops,
    crc16_check_string⟩

end Sys2Proof.Machine
end

section
/-! PROOFS. The two CRCs apart (40_crc R115): an operation that neither reads nor writes an accumulator
commutes with putting another value there. -/

namespace Sys2Proof.Machine

/-! ## The data channel -/

/-- If the body of an operation commutes with a change of the state, so does the operation: `hfail` says
that the change leaves the response alone. -/
theorem withNone_mapNext {f : State → State} {s : State} {k k' : Result} (d : Data)
    (hfail : (f s).failedWith .illegalCmd = f (s.failedWith .illegalCmd)) (h : k' = mapNext f k) :
    withNone d (f s) k' = mapNext f (withNone d s k) := by
  cases d with
  | none => exact h
  | bytes | samples => exact congrArg _ hfail

theorem withBytes_mapNext {f : State → State} {s : State} {k k' : List Byte → Result} (d : Data)
    (hfail : (f s).failedWith .illegalCmd = f (s.failedWith .illegalCmd))
    (h : ∀ bs, k' bs = mapNext f (k bs)) :
    withBytes d (f s) k' = mapNext f (withBytes d s k) := by
  cases d with
  | bytes bs => exact h bs
  | none | samples => exact congrArg _ hfail

/-! ## The CRC unit and `p_crc` -/

/-- The state with the parser's running CRC replaced. -/
def State.withPCrc (x : Half) (s : State) : State := { s with pCrc := x }

theorem exec_crcInit_withPCrc (x : Half) (d : Data) (s : State) :
    exec (.crcInit d) (s.withPCrc x) = mapNext (State.withPCrc x) (exec (.crcInit d) s) :=
  withNone_mapNext d rfl rfl

theorem exec_crcByte_withPCrc (x : Half) (b : Byte) (d : Data) (s : State) :
    exec (.crcByte b d) (s.withPCrc x) = mapNext (State.withPCrc x) (exec (.crcByte b d) s) :=
  withNone_mapNext d rfl rfl

theorem exec_crcRead_withPCrc (x : Half) (d : Data) (s : State) :
    exec (.crcRead d) (s.withPCrc x) = mapNext (State.withPCrc x) (exec (.crcRead d) s) :=
  withNone_mapNext d rfl rfl

/-! ## The parser, the codec and `crc_acc` -/

/-- The state with the CRC unit's accumulator replaced. -/
def State.withCrcAcc (x : Half) (s : State) : State := { s with crcAcc := x }

/-- What one byte does to the parser, with the accumulator replaced in the state after it. -/
def RxOutcome.withCrcAcc (x : Half) (o : RxOutcome) : RxOutcome :=
  o.map (Prod.map (State.withCrcAcc x) id)

section
variable (x : Half) (b : Byte) (s : State)

theorem rxHeaderEnd_withCrcAcc : rxHeaderEnd (s.withCrcAcc x) = (rxHeaderEnd s).withCrcAcc x := by
  unfold rxHeaderEnd
  extract_lets
  rw [apply_ite (State.withCrcAcc x)]
  rfl

/-- The guards of the parser step read no accumulator, so both sides take the same branch, and no branch
writes it. -/
theorem rxStep_withCrcAcc : rxStep b (s.withCrcAcc x) = RxOutcome.withCrcAcc x (rxStep b s) := by
  have hstate : (s.withCrcAcc x).pState = s.pState := rfl
  unfold rxStep
  rw [hstate]
  cases s.pState with
  | waitSof0 =>
    unfold rxWaitSof0
    rw [apply_ite (RxOutcome.withCrcAcc x)]
    rfl
  | waitSof1 =>
    unfold rxWaitSof1
    rw [apply_ite (RxOutcome.withCrcAcc x)]
    rfl
  | header =>
    have hend := rxHeaderEnd_withCrcAcc x
      { (s.count .bytesRx).storeHdr b with pCrc := crcStep s.pCrc b }
    unfold rxHeader
    simp only [apply_ite (RxOutcome.withCrcAcc x)]
    refine if_congr Iff.rfl rfl (if_congr Iff.rfl ?_ rfl)
    exact congrArg (fun u => Except.ok (u, none)) hend
  | payload =>
    unfold rxPayload
    simp only [apply_ite (RxOutcome.withCrcAcc x)]
    rfl
  | crcLo => rfl
  | crcHi =>
    unfold rxCrcHi
    simp only [apply_ite (RxOutcome.withCrcAcc x)]
    rfl

theorem exec_rxByte_withCrcAcc (d : Data) :
    exec (.rxByte b d) (s.withCrcAcc x) = mapNext (State.withCrcAcc x) (exec (.rxByte b d) s) := by
  refine withNone_mapNext d rfl ?_
  rw [rxStep_withCrcAcc]
  obtain e | ⟨u, _ | f⟩ := rxStep b s <;> rfl

theorem exec_encodeFrame_withCrcAcc (ty sq : Byte) (d : Data) :
    exec (.encodeFrame ty sq d) (s.withCrcAcc x) =
      mapNext (State.withCrcAcc x) (exec (.encodeFrame ty sq d) s) := by
  refine withBytes_mapNext d rfl fun p => ?_
  rw [apply_ite (mapNext _)]
  rfl

theorem exec_decodeFrame_withCrcAcc (d : Data) :
    exec (.decodeFrame d) (s.withCrcAcc x) =
      mapNext (State.withCrcAcc x) (exec (.decodeFrame d) s) := by
  refine withBytes_mapNext d rfl fun F => ?_
  have hcfg : (s.withCrcAcc x).cfg = s.cfg := rfl
  rw [hcfg]
  cases decodeFrameBytes s.cfg F <;> rfl

end

/-- Settles O25: each of the six operations commutes with replacing the accumulator it has no part in. -/
theorem crcUnitIndependent : Obligations.CrcUnitIndependent := by
  intro s x d b ty sq
  simp only [List.forall_mem_cons]
  exact ⟨⟨exec_crcInit_withPCrc x d s, exec_crcByte_withPCrc x b d s, exec_crcRead_withPCrc x d s,
      List.forall_mem_nil _⟩,
    exec_rxByte_withCrcAcc x b s d, exec_encodeFrame_withCrcAcc x s ty sq d,
    exec_decodeFrame_withCrcAcc x s d, List.forall_mem_nil _⟩

end Sys2Proof.Machine
end

section
/-! PROOFS. The frame codec (41_frame_codec R130 to R134): `decode_frame` accepts exactly the frames that
`frame_bytes` gives, and ENCODE and DECODE answer what these two functions give. -/

namespace Sys2Proof.Machine

/-! ## The checks of `decode_frame` -/

theorem declaredLen_eq (F : List Byte) :
    declaredLen F = (F.getD 4 0).toNat + 256 * (F.getD 5 0).toNat := joinLe16_toNat _ _

/-- Settles O30: each clause is one branch of the definition, with its 16-bit values read as numbers. -/
theorem decodeChecksInOrder : Obligations.DecodeChecksInOrder := by
  intro c F
  refine ⟨fun hshort => if_pos hshort, fun h8 hsof => ?badSof, fun h8 h0 h1 L hL => ?sofOk⟩
  case badSof => rw [decodeFrameBytes, if_neg (Nat.not_lt.mpr h8), if_pos hsof]
  case sofOk =>
    have hsof : ¬(F.getD 0 0 ≠ c.sof0 ∨ F.getD 1 0 ≠ c.sof1) :=
      not_or.mpr ⟨not_not.mpr h0, not_not.mpr h1⟩
    rw [← declaredLen_eq] at hL
    subst hL
    rw [show 576 = maxPayload from rfl]
    simp only [← joinLe16_eq_iff, ne_eq]
    rw [decodeFrameBytes, if_neg (Nat.not_lt.mpr h8), if_neg hsof]
    refine ⟨fun hbig => if_pos hbig, fun hfit hlen => ?_, fun hfit hlen hcrc => ?_,
      fun hfit hlen hcrc => ?_⟩
    · rw [if_neg hfit.not_gt, if_pos hlen]
    · rw [if_neg hfit.not_gt, if_neg (not_not.mpr hlen), if_pos hcrc]
    · rw [if_neg hfit.not_gt, if_neg (not_not.mpr hlen), if_neg (not_not.mpr hcrc)]

/-- `decode_frame` of a sequence given by the bytes before the payload, with the right SOF bytes, and the
rest. -/
theorem decodeFrameBytes_of_sof (c : Config) (ty sq lo hi : Byte) {body : List Byte}
    (h : 2 ≤ body.length) :
    decodeFrameBytes c (c.sof0 :: c.sof1 :: ty :: sq :: lo :: hi :: body) =
      if maxPayload < (joinLe16 lo hi).toNat then .error .payloadTooLarge
      else if body.length ≠ (joinLe16 lo hi).toNat + 2 then .error .lengthMismatch
      else if joinLe16 (body.getD (joinLe16 lo hi).toNat 0) (body.getD ((joinLe16 lo hi).toNat + 1) 0) ≠
          crc16 (ty :: sq :: lo :: hi :: body.take (joinLe16 lo hi).toNat) then .error .crcMismatch
      else .ok ⟨ty, sq, body.take (joinLe16 lo hi).toNat⟩ := by
  have hL : declaredLen (c.sof0 :: c.sof1 :: ty :: sq :: lo :: hi :: body) =
    (joinLe16 lo hi).toNat := rfl
  have hlen : (c.sof0 :: c.sof1 :: ty :: sq :: lo :: hi :: body).length = 8 + (body.length - 2) := by
    simp only [List.length_cons]
    omega
  have hmismatch (L : Nat) : 8 + (body.length - 2) ≠ 8 + L ↔ body.length ≠ L + 2 := by omega
  rw [decodeFrameBytes, hL, hlen, if_neg (by omega), if_neg (by simp)]
  generalize (joinLe16 lo hi).toNat = L
  rw [Nat.add_comm 6 L, Nat.add_comm 7 L, Nat.add_comm 4 L]
  simp only [hmismatch]
  rfl

/-- A sequence of eight bytes or more has six before the payload's place and at least two from it on. -/
theorem exists_six_cons {F : List Byte} (h : 8 ≤ F.length) :
    ∃ a₀ a₁ a₂ a₃ a₄ a₅ body, 2 ≤ body.length ∧ F = a₀ :: a₁ :: a₂ :: a₃ :: a₄ :: a₅ :: body := by
  refine ⟨F[0], F[1], F[2], F[3], F[4], F[5], F.drop 6, ?_, ?_⟩
  · rw [List.length_drop]
    omega
  · simp only [List.getElem_cons_drop, List.drop_zero]

/-- What passes the first two checks begins with the SOF bytes and a header, and has room for a CRC. -/
theorem exists_sof_header {c : Config} {F : List Byte}
    (hshort : decodeFrameBytes c F ≠ .error .truncated)
    (hsof : decodeFrameBytes c F ≠ .error .badSof) :
    ∃ ty sq lo hi body, 2 ≤ body.length ∧
      F = c.sof0 :: c.sof1 :: ty :: sq :: lo :: hi :: body := by
  obtain ⟨truncated, badSof, -⟩ := decodeChecksInOrder c F
  have h8 : 8 ≤ F.length := Nat.le_of_not_lt fun hlt => hshort (truncated hlt)
  obtain ⟨h0, h1⟩ := not_or.mp fun hbad => hsof (badSof h8 hbad)
  obtain ⟨a₀, a₁, ty, sq, lo, hi, body, hbody, rfl⟩ := exists_six_cons h8
  obtain rfl : a₀ = c.sof0 := not_not.mp h0
  obtain rfl : a₁ = c.sof1 := not_not.mp h1
  exact ⟨ty, sq, lo, hi, body, hbody, rfl⟩

/-! ## Frames with any CRC bytes -/

/-- The bytes of a frame with two bytes, right or wrong, in the place of its CRC. -/
def frameWithCrc (c : Config) (f : Frame) (lo hi : Byte) : List Byte :=
  [c.sof0, c.sof1] ++ crcDomain f ++ [lo, hi]

theorem frameBytes_eq_frameWithCrc (c : Config) (f : Frame) :
    frameBytes c f = frameWithCrc c f ((crc16 (crcDomain f)).extractLsb' 0 8)
      ((crc16 (crcDomain f)).extractLsb' 8 8) := rfl

/-- A sequence with two bytes more than `n` is `n` bytes and the two. -/
theorem exists_append_pair {n : Nat} {bs : List Byte} (h : bs.length = n + 2) :
    ∃ p x y, n = p.length ∧ bs = p ++ [x, y] := by
  obtain ⟨x, y, hxy⟩ := List.length_eq_two.mp (show (bs.drop n).length = 2 by simp [h])
  exact ⟨bs.take n, x, y, by simp [h], by rw [← hxy, List.take_append_drop]⟩

/-- The bytes from the header on, as `decode_frame` takes them apart. -/
theorem frameWithCrc_eq (c : Config) (f : Frame) (lo hi : Byte) :
    frameWithCrc c f lo hi = c.sof0 :: c.sof1 :: f.ty :: f.sq ::
      (BitVec.ofNat 16 f.payload.length).extractLsb' 0 8 ::
      (BitVec.ofNat 16 f.payload.length).extractLsb' 8 8 :: (f.payload ++ [lo, hi]) := rfl

/-- With its own CRC the bytes are the frame's. -/
theorem frameWithCrc_eq_frameBytes (c : Config) {f : Frame} {lo hi : Byte}
    (h : joinLe16 lo hi = crc16 (crcDomain f)) : frameWithCrc c f lo hi = frameBytes c f := by
  rw [frameBytes_eq_frameWithCrc, ← h, joinLe16_lo, joinLe16_hi]

/-- The length bytes of a payload that fits declare its length. -/
theorem joinLe16_length_bytes {p : List Byte} (h : p.length ≤ maxPayload) :
    (joinLe16 ((BitVec.ofNat 16 p.length).extractLsb' 0 8)
      ((BitVec.ofNat 16 p.length).extractLsb' 8 8)).toNat = p.length := by
  rw [joinLe16_extract, BitVec.toNat_ofNat]
  exact Nat.mod_eq_of_lt (Nat.lt_of_le_of_lt h (by decide))

/-- Bytes that declare a length are that length's. -/
theorem length_bytes_of_joinLe16 {n : Nat} {lo hi : Byte} (h : (joinLe16 lo hi).toNat = n) :
    (BitVec.ofNat 16 n).extractLsb' 0 8 = lo ∧ (BitVec.ofNat 16 n).extractLsb' 8 8 = hi := by
  rw [← h, BitVec.ofNat_toNat, BitVec.setWidth_eq]
  exact ⟨joinLe16_lo lo hi, joinLe16_hi lo hi⟩

/-- Of a whole frame `decode_frame` tests the CRC. -/
theorem decodeFrameBytes_frameWithCrc (c : Config) {f : Frame} (lo hi : Byte)
    (hfit : f.payload.length ≤ maxPayload) :
    decodeFrameBytes c (frameWithCrc c f lo hi) =
      if joinLe16 lo hi = crc16 (crcDomain f) then .ok f else .error .crcMismatch := by
  have hlo : (f.payload ++ [lo, hi]).getD f.payload.length 0 = lo := by simp
  have hhi : (f.payload ++ [lo, hi]).getD (f.payload.length + 1) 0 = hi := by simp
  have htake : (f.payload ++ [lo, hi]).take f.payload.length = f.payload := List.take_left
  have hlen : (f.payload ++ [lo, hi]).length = f.payload.length + 2 := by simp
  rw [frameWithCrc_eq, decodeFrameBytes_of_sof c f.ty f.sq _ _ (hlen ▸ Nat.le_add_left 2 _),
    joinLe16_length_bytes hfit, hlo, hhi, htake, if_neg hfit.not_gt, if_neg (not_not.mpr hlen),
    ite_not]
  rfl

/-- What passes every check before the CRC's is a frame with some CRC bytes. -/
theorem exists_frameWithCrc {c : Config} {F : List Byte}
    (h : (∃ f, decodeFrameBytes c F = .ok f) ∨ decodeFrameBytes c F = .error .crcMismatch) :
    ∃ f lo hi, f.payload.length ≤ maxPayload ∧ F = frameWithCrc c f lo hi := by
  obtain ⟨ty, sq, l₀, l₁, body, hbody, rfl⟩ :=
    exists_sof_header (c := c) (F := F) (fun e => by simp [e] at h) (fun e => by simp [e] at h)
  rw [decodeFrameBytes_of_sof c ty sq l₀ l₁ hbody] at h
  split at h
  case isTrue => simp at h
  case isFalse hfit =>
    split at h
    case isTrue => simp at h
    case isFalse hlen =>
      obtain ⟨p, lo, hi, hp, rfl⟩ := exists_append_pair (not_not.mp hlen)
      obtain ⟨rfl, rfl⟩ := length_bytes_of_joinLe16 hp
      exact ⟨⟨ty, sq, p⟩, lo, hi, hp ▸ Nat.le_of_not_lt hfit, rfl⟩

/-- `decode_frame` accepts a frame with no other fields than its own, and nothing but frames. -/
theorem decodeFrameBytes_eq_ok_iff {c : Config} {F : List Byte} {f : Frame} :
    decodeFrameBytes c F = .ok f ↔ f.payload.length ≤ maxPayload ∧ F = frameBytes c f := by
  constructor
  · intro h
    obtain ⟨g, lo, hi, hfit, rfl⟩ := exists_frameWithCrc (.inl ⟨f, h⟩)
    rw [decodeFrameBytes_frameWithCrc c lo hi hfit] at h
    split at h
    · obtain rfl := Except.ok.inj h
      exact ⟨hfit, frameWithCrc_eq_frameBytes c ‹_›⟩
    · cases h
  · rintro ⟨hfit, rfl⟩
    rw [frameBytes_eq_frameWithCrc, decodeFrameBytes_frameWithCrc c _ _ hfit,
      if_pos (joinLe16_extract _)]

/-- A frame with bytes behind it does not have the length it declares. -/
theorem decodeFrameBytes_append_of_ok {c : Config} {F e : List Byte} {f : Frame}
    (h : decodeFrameBytes c F = .ok f) (he : e ≠ []) :
    decodeFrameBytes c (F ++ e) = .error .lengthMismatch := by
  obtain ⟨hfit, rfl⟩ := decodeFrameBytes_eq_ok_iff.mp h
  have hlong := List.length_pos_of_ne_nil he
  have hlen : (f.payload ++ le16 (crc16 (crcDomain f)) ++ e).length =
      f.payload.length + e.length + 2 := by
    simp only [List.length_append, le16_length]
    omega
  simp only [frameBytes_eq, List.cons_append]
  rw [decodeFrameBytes_of_sof c f.ty f.sq _ _ (hlen ▸ Nat.le_add_left 2 _),
    joinLe16_length_bytes hfit, if_neg hfit.not_gt, hlen, if_pos (by omega)]

/-- What declares too long a payload begins with the SOF bytes and a header that does. -/
theorem exists_header_of_payloadTooLarge {c : Config} {F : List Byte}
    (h : decodeFrameBytes c F = .error .payloadTooLarge) :
    ∃ ty sq lo hi rest, maxPayload < (joinLe16 lo hi).toNat ∧
      F = c.sof0 :: c.sof1 :: ty :: sq :: lo :: hi :: rest := by
  obtain ⟨ty, sq, lo, hi, rest, hrest, rfl⟩ :=
    exists_sof_header (c := c) (F := F) (fun e => by simp [e] at h) (fun e => by simp [e] at h)
  rw [decodeFrameBytes_of_sof c ty sq lo hi hrest] at h
  split at h
  case isTrue hbig => exact ⟨ty, sq, lo, hi, rest, hbig, rfl⟩
  case isFalse => split_ifs at h <;> cases h

/-! ## The operations -/

theorem exec_decodeFrame_of_ok {F : List Byte} {f : Frame} {s : State}
    (h : decodeFrameBytes s.cfg F = .ok f) :
    exec (.decodeFrame (.bytes F)) s =
      .next (s.okWith (packFrame f.payload.length f.ty f.sq) (.bytes f.payload)) := by
  simp only [exec, execDecodeFrame, withBytes_bytes, h, State.respond_eq]

theorem exec_decodeFrame_of_error {F : List Byte} {e : Status} {s : State}
    (h : decodeFrameBytes s.cfg F = .error e) :
    exec (.decodeFrame (.bytes F)) s = .next (s.failedWith e) := by
  simp only [exec, execDecodeFrame, withBytes_bytes, h, State.fail_eq]

theorem exec_encodeFrame_of_fits (ty sq : Byte) {p : List Byte} (s : State)
    (h : p.length ≤ maxPayload) :
    exec (.encodeFrame ty sq (.bytes p)) s =
      .next ((s.count .framesSent).okWith 0 (.bytes (frameBytes s.cfg ⟨ty, sq, p⟩))) :=
  if_neg h.not_gt

theorem exec_encodeFrame_of_oversize (ty sq : Byte) {p : List Byte} (s : State)
    (h : maxPayload < p.length) :
    exec (.encodeFrame ty sq (.bytes p)) s = .next (s.failedWith .payloadTooLarge) :=
  if_pos h

/-- A byte shifted by 16 is in the field `b8`. -/
theorem zeroExtend_byte_shiftLeft_eq_toWord (b : Byte) :
    b.zeroExtend 32 <<< 16 = Fields.toWord ⟨0, 0, b, 0, 0⟩ := by
  refine BitVec.eq_of_getLsbD_eq fun i h => ?_
  rw [Fields.getLsbD_toWord, BitVec.getLsbD_shiftLeft]
  by_cases hlow : i < 16
  · simp [hlow]
  by_cases hb8 : i < 24
  · simp [h, hlow, hb8, show ¬i < 8 by omega, show i - 16 < 32 by omega]
  · simp [h, hlow, hb8, show ¬i < 8 by omega, BitVec.getLsbD_of_ge b (i - 16) (by omega)]

/-- The word of ENCODE has its operands in two fields apart (R91). -/
theorem encodeFrame_word (ty sq : Byte) :
    0x40000000#32 ||| ty.zeroExtend 32 <<< 16 ||| sq.zeroExtend 32 =
      Fields.toWord ⟨4, 0, ty, 0, sq⟩ := by
  have hop : 0x40000000#32 = Fields.toWord ⟨4, 0, 0, 0, 0⟩ := by decide
  rw [hop, zeroExtend_byte_shiftLeft_eq_toWord, Fields.toWord_or]
  simp [Fields.toWord_or_zeroExtend]

theorem decode_encodeFrame (ty sq : Byte) (d : Data) :
    decode ⟨0x40000000#32 ||| ty.zeroExtend 32 <<< 16 ||| sq.zeroExtend 32, d⟩ =
      .ok (.encodeFrame ty sq d) :=
  decode_of_fields (i := .encodeFrame ty sq d) ⟨4, 0, ty, 0, sq⟩ rfl (encodeFrame_word ty sq)

theorem decode_decodeFrame (d : Data) : decode ⟨0x50000000#32, d⟩ = .ok (.decodeFrame d) :=
  decode_of_fields (i := .decodeFrame d) ⟨5, 0, 0, 0, 0⟩ rfl (by decide)

/-- The example of R131. -/
theorem frameBytes_example : frameBytes .default ⟨0x10, 0x05, [1, 2, 3]⟩ =
    [0xAA, 0x55, 0x10, 0x05, 0x03, 0x00, 0x01, 0x02, 0x03, 0x57, 0x0A] := by decide +kernel

/-- Settles O28: the frame is accepted with its own fields, and DECODE answers what is accepted. -/
theorem decodeOfEncodedFrame : Obligations.DecodeOfEncodedFrame := by
  intro f hfit
  have haccepts (c : Config) : decodeFrameBytes c (frameBytes c f) = .ok f :=
    decodeFrameBytes_eq_ok_iff.mpr ⟨hfit, rfl⟩
  exact ⟨haccepts, fun s => exec_decodeFrame_of_ok (haccepts s.cfg)⟩

/-- Settles O29: the other direction of the same equivalence. -/
theorem decodeAcceptsOnlyFrames : Obligations.DecodeAcceptsOnlyFrames :=
  fun _ _ _ => decodeFrameBytes_eq_ok_iff.mp

/-- Settles O27: the operands are two fields of the word, the rest of its operation code matches no row,
and the payload's length decides which of the two answers is given. -/
theorem encodeOperation : Obligations.EncodeOperation :=
  ⟨decode_encodeFrame, illegalUnless_of_row "ENCODE",
    fun ty sq _ s => exec_encodeFrame_of_fits ty sq s,
    fun ty sq _ s => exec_encodeFrame_of_oversize ty sq s, frameBytes_example, by decide +kernel⟩

/-- Settles O31: DECODE answers what `decode_frame` gives; the rule's first example is ENCODE's frame. -/
theorem decodeOperation : Obligations.DecodeOperation := by
  refine ⟨decode_decodeFrame, illegalUnless_of_row "DECODE", fun F f s => exec_decodeFrame_of_ok,
    fun F e s => exec_decodeFrame_of_error, ?accepted, by decide, by decide +kernel, rfl⟩
  case accepted => exact decodeFrameBytes_eq_ok_iff.mpr ⟨by decide, frameBytes_example.symm⟩

end Sys2Proof.Machine
end

section
/-! PROOFS. RX_BYTE and runs of it (42_rx_parser R150 to R157, 30_encoding R96): each transition of the parser
is what the operation does, and a run of bytes is followed one transition at a time. -/

namespace Sys2Proof.Machine

/-! ## One byte -/

/-- The transitions are all that the parser step takes (`rxStep_cases`), and it takes each of them. -/
theorem RxTransition.rxStep_eq {b : Byte} {s u : State} {f : Option Frame}
    (h : RxTransition b s u f) : rxStep b s = .ok (u, f) := by
  cases h with
  | sof0Match hp hb => simp only [rxStep, hp]; exact if_pos hb
  | sof0Stay hp hb => simp only [rxStep, hp]; exact if_neg hb
  | sof1Match hp hb => simp only [rxStep, hp]; exact if_pos hb
  | sof1Mismatch hp hb => simp only [rxStep, hp]; exact if_neg hb
  | headerMore hp hc =>
    have hbound : ¬4 ≤ s.hdrCnt := by omega
    have hmore : ¬s.hdrCnt + 1 = 4 := by omega
    simp [rxStep, hp, rxHeader, hbound, hmore, State.storeHdr, State.count]
  | headerOversize hp hc L hL hbig =>
    subst hL
    simp [rxStep, hp, rxHeader, hc, rxHeaderEnd, hbig, State.storeHdr, State.count]
  | headerAccept hp hc L hL hfit =>
    subst hL
    simp [rxStep, hp, rxHeader, hc, rxHeaderEnd, hfit.not_gt, State.storeHdr, State.count]
  | payload hp hc =>
    by_cases hlast : s.payCnt + 1 = s.pLen <;>
      simp [rxStep, hp, rxPayload, hc.not_ge, hlast, State.storePay, State.count]
  | crcLo hp => simp only [rxStep, hp]; rfl
  | crcHiMatch hp hcrc hfit =>
    simp only [rxStep, hp]
    exact (if_pos hcrc).trans (if_neg hfit.not_gt)
  | crcHiMismatch hp hcrc => simp only [rxStep, hp]; exact if_neg hcrc

/-- What RX_BYTE does, transition by transition. -/
theorem RxTransition.exec_eq {b : Byte} {s u : State} {f : Option Frame}
    (h : RxTransition b s u f) :
    exec (.rxByte b .none) s = .next { u with resp := some (rxResponse f) } := by
  simp only [exec, execRxByte, withNone_none, h.rxStep_eq]
  cases f <;> rfl

/-! ## A sequence of bytes -/

/-- The operations of two sequences in a row, and their responses. -/
theorem runOps_append (is js : List Instr) (s : State) :
    runOps (is ++ js) s = (runOps is s).bind fun p =>
      (runOps js p.1).map fun q => (q.1, p.2 ++ q.2) := by
  induction is generalizing s with
  | nil => simp [runOps]
  | cons i is ih =>
    cases hexec : exec i s with
    | next t =>
      rw [List.cons_append, runOps_cons_of_next hexec, runOps_cons_of_next hexec, ih]
      cases runOps is t with
      | none => rfl
      | some p => simp [Function.comp_def]
    | fault e => simp [runOps, hexec]
    | refused e => simp [runOps, hexec]

theorem rxBytesOps_append (a b : List Byte) :
    rxBytesOps (a ++ b) = rxBytesOps a ++ rxBytesOps b := List.map_append

/-- The bytes `bs`, received in order, lead from `s` to `t` and none of them emits anything. -/
def QuietRun (bs : List Byte) (s t : State) : Prop :=
  runOps (rxBytesOps bs) s = some (t, List.replicate bs.length quiet)

theorem QuietRun.nil (s : State) : QuietRun [] s s := rfl

/-- One byte after a quiet run gives the response of its transition. -/
theorem QuietRun.runOps_concat {bs : List Byte} {s t u : State} {b : Byte} {f : Option Frame}
    (h : QuietRun bs s t) (hb : RxTransition b t u f) :
    runOps (rxBytesOps (bs ++ [b])) s =
      some ({ u with resp := some (rxResponse f) },
        List.replicate bs.length quiet ++ [rxResponse f]) := by
  have hone : runOps (rxBytesOps [b]) t =
      some ({ u with resp := some (rxResponse f) }, [rxResponse f]) :=
    runOps_cons_of_next hb.exec_eq []
  rw [QuietRun] at h
  rw [rxBytesOps_append, runOps_append, h, Option.bind_some, hone]
  rfl

/-- One byte that completes no frame extends a quiet run. -/
theorem QuietRun.concat {bs : List Byte} {s t u : State} {b : Byte} (h : QuietRun bs s t)
    (hb : RxTransition b t u none) :
    QuietRun (bs ++ [b]) s { u with resp := some quiet } := by
  rw [QuietRun, h.runOps_concat hb, List.length_append, List.length_singleton,
    List.replicate_succ']
  rfl

end Sys2Proof.Machine
end

section
/-! PROOFS. The parser against `decode_frame` (42_rx_parser R135): after each part of a frame the parser
holds the bytes of that part and their CRC, so that it decides as `decode_frame` does. -/

namespace Sys2Proof.Machine

/-! ## What the parser holds -/

/-- The counters of what the parser drops: FRAMES_BAD_CRC and FRAMING_ERR. -/
def State.dropCounts (s : State) : Word × Word := (s.stats.framesBadCrc, s.stats.framingErr)

/-- From `s` the SOF bytes and the header bytes `h` were received and led to `t`, in HEADER (R154). -/
structure ReceivedHeader (s : State) (h : List Byte) (t : State) : Prop where
  run : QuietRun (s.cfg.sof0 :: s.cfg.sof1 :: h) s t
  drops : t.dropCounts = s.dropCounts
  pState : t.pState = .header
  hdrCnt : t.hdrCnt = h.length
  hdr : t.hdr.take h.length = h
  pCrc : t.pCrc = crc16 h
  hdr_wf : t.hdr.wf = true
  pay_wf : t.pay.wf = true

/-- From `s` the SOF bytes, the header `h`, which declares `n` payload bytes, and the payload bytes `p`
were received and led to `t`, in PAYLOAD or, with all of them received, in CRC_LO (R154, R155). -/
structure ReceivedPayload (s : State) (h : List Byte) (n : Nat) (p : List Byte) (t : State) :
    Prop where
  run : QuietRun (s.cfg.sof0 :: s.cfg.sof1 :: (h ++ p)) s t
  drops : t.dropCounts = s.dropCounts
  pState : t.pState = if p.length = n then .crcLo else .payload
  hdr : t.hdr.take 4 = h
  pLen : t.pLen = n
  payCnt : t.payCnt = p.length
  pay : t.pay.take p.length = p
  pCrc : t.pCrc = crc16 (h ++ p)
  pay_wf : t.pay.wf = true

/-- From `s` all bytes of the frame `f` but the last, with `lo` as its low CRC byte, were received and led
to `t`, in CRC_HI (R156). -/
structure ReceivedAllButLast (s : State) (f : Frame) (lo : Byte) (t : State) : Prop where
  run : QuietRun ([s.cfg.sof0, s.cfg.sof1] ++ crcDomain f ++ [lo]) s t
  drops : t.dropCounts = s.dropCounts
  pState : t.pState = .crcHi
  pLen : t.pLen = f.payload.length
  fields : Frame.mk (t.hdr.read 0) (t.hdr.read 1) (t.pay.take t.pLen) = f
  crcLo : t.crcLo = lo
  pCrc : t.pCrc = crc16 (crcDomain f)

/-- An element of a buffer whose contents are known. -/
theorem Memory.read_of_take {w : Nat} {m : Memory w} {n i : Nat} {xs : List (BitVec w)}
    (h : m.take n = xs) (hi : i < n) : m.read i = xs.getD i 0 := by
  subst h
  simp [Memory.take, hi]

/-! ## The parts of a frame, one after the other -/

theorem exists_receivedHeader_nil {s : State} (hinv : s.Inv) (hp : s.pState = .waitSof0) :
    ∃ t, ReceivedHeader s [] t := by
  obtain ⟨-, -, -, ⟨⟨hhdr, -⟩, ⟨hpay, -⟩, -⟩, -⟩ := hinv
  exact ⟨_, ((QuietRun.nil s).concat (.sof0Match hp rfl)).concat (.sof1Match rfl rfl),
    rfl, rfl, rfl, rfl, rfl, hhdr, hpay⟩

/-- The first three header bytes decide nothing. -/
theorem ReceivedHeader.concat {s t : State} {h : List Byte} (ht : ReceivedHeader s h t)
    (hlen : h.length < 3) (b : Byte) : ∃ u, ReceivedHeader s (h ++ [b]) u := by
  have hmore : RxTransition b t _ none := .headerMore ht.pState (ht.hdrCnt ▸ hlen)
  refine ⟨_, ht.run.concat hmore, ht.drops, ht.pState, ?_, ?_, ?_, Memory.wf_write ht.hdr_wf _ _,
    ht.pay_wf⟩
  · rw [List.length_append]
    exact congrArg (· + 1) ht.hdrCnt
  · rw [List.length_append, List.length_singleton, ← ht.hdrCnt]
    refine (Memory.take_write_succ ht.hdr_wf t.hdrCnt b).trans (congrArg (· ++ [b]) ?_)
    rw [ht.hdrCnt, ht.hdr]
  · rw [crc16_concat, ← ht.pCrc]

theorem exists_receivedHeader {s : State} (hinv : s.Inv) (hp : s.pState = .waitSof0)
    (h : List Byte) (hlen : h.length ≤ 3) : ∃ t, ReceivedHeader s h t := by
  induction h using List.reverseRecOn with
  | nil => exact exists_receivedHeader_nil hinv hp
  | append_singleton h b ih =>
    rw [List.length_append, List.length_singleton] at hlen
    obtain ⟨t, ht⟩ := ih (by omega)
    exact ht.concat (by omega) b

/-- The fourth header byte completes the buffer. -/
theorem ReceivedHeader.hdr_write {s t : State} {ty sq lo : Byte}
    (ht : ReceivedHeader s [ty, sq, lo] t) (hi : Byte) :
    (t.hdr.write 3 hi).take 4 = [ty, sq, lo, hi] :=
  (Memory.take_write_succ ht.hdr_wf 3 hi).trans (congrArg (· ++ [hi]) ht.hdr)

/-- The length the parser reads at the fourth header byte is the declared one. -/
theorem ReceivedHeader.declared {s t : State} {ty sq lo : Byte}
    (ht : ReceivedHeader s [ty, sq, lo] t) (hi : Byte) :
    joinLe16 lo hi =
      joinLe16 ((t.hdr.write 3 hi).read 2) ((t.hdr.write 3 hi).read 3) := by
  rw [Memory.read_of_take (ht.hdr_write hi) (by decide),
    Memory.read_of_take (ht.hdr_write hi) (by decide)]
  rfl

/-- A declared length that fits starts the payload, or ends it if it is 0. -/
theorem ReceivedHeader.accept {s t : State} {ty sq lo hi : Byte} {n : Nat}
    (ht : ReceivedHeader s [ty, sq, lo] t) (hn : (joinLe16 lo hi).toNat = n)
    (hfit : n ≤ maxPayload) : ∃ u, ReceivedPayload s [ty, sq, lo, hi] n [] u := by
  have haccept : RxTransition hi t _ none :=
    .headerAccept ht.pState ht.hdrCnt n (hn.symm.trans (congrArg _ (ht.declared hi))) hfit
  refine ⟨_, ht.run.concat haccept, ht.drops, ?_, ht.hdr_write hi, rfl, rfl, rfl, ?_, ht.pay_wf⟩
  · simp only [List.length_nil, eq_comm]
  · exact (congrArg (crcStep · hi) ht.pCrc).trans (crc16_concat _ _).symm

theorem ReceivedPayload.concat {s t : State} {h p : List Byte} {n : Nat}
    (ht : ReceivedPayload s h n p t) (hlen : p.length < n) (hfit : n ≤ maxPayload) (b : Byte) :
    ∃ u, ReceivedPayload s h n (p ++ [b]) u := by
  have hstate : t.pState = .payload := ht.pState.trans (if_neg hlen.ne)
  have hbyte : RxTransition b t _ none :=
    .payload hstate (ht.payCnt ▸ Nat.lt_of_lt_of_le hlen hfit)
  have hrun := ht.run.concat hbyte
  rw [List.cons_append, List.cons_append, List.append_assoc] at hrun
  have hcount : t.payCnt + 1 = (p ++ [b]).length := by
    rw [List.length_append, ht.payCnt, List.length_singleton]
  refine ⟨_, hrun, ht.drops, ?pState, ht.hdr, ht.pLen, hcount, ?pay, ?pCrc,
    Memory.wf_write ht.pay_wf _ _⟩
  case pState => simp only [hcount, ht.pLen]
  case pay =>
    rw [← hcount]
    refine (Memory.take_write_succ ht.pay_wf t.payCnt b).trans (congrArg (· ++ [b]) ?_)
    rw [ht.payCnt, ht.pay]
  case pCrc => rw [← List.append_assoc, crc16_concat, ← ht.pCrc]

theorem ReceivedPayload.append {s t : State} {h : List Byte} {n : Nat}
    (ht : ReceivedPayload s h n [] t) (hfit : n ≤ maxPayload) (p : List Byte) (hlen : p.length ≤ n) :
    ∃ u, ReceivedPayload s h n p u := by
  induction p using List.reverseRecOn with
  | nil => exact ⟨t, ht⟩
  | append_singleton p b ih =>
    rw [List.length_append, List.length_singleton] at hlen
    obtain ⟨u, hu⟩ := ih (by omega)
    exact hu.concat (by omega) hfit b

theorem frameWithCrc_eq_concat (c : Config) (f : Frame) (lo hi : Byte) :
    frameWithCrc c f lo hi = [c.sof0, c.sof1] ++ crcDomain f ++ [lo] ++ [hi] := by
  rw [frameWithCrc, List.append_assoc _ [lo] [hi]]
  rfl

/-- The parser takes a whole frame up to its last byte, whatever its CRC bytes are. -/
theorem exists_receivedAllButLast {s : State} (hinv : s.Inv) (hp : s.pState = .waitSof0) {f : Frame}
    (hfit : f.payload.length ≤ maxPayload) (lo : Byte) : ∃ t, ReceivedAllButLast s f lo t := by
  obtain ⟨t, ht⟩ := exists_receivedHeader hinv hp
    [f.ty, f.sq, (BitVec.ofNat 16 f.payload.length).extractLsb' 0 8] le_rfl
  obtain ⟨u, hu⟩ := ht.accept (joinLe16_length_bytes hfit) hfit
  obtain ⟨v, hv⟩ := hu.append hfit f.payload le_rfl
  have hcrcLo : RxTransition lo v _ none := .crcLo (hv.pState.trans (if_pos rfl))
  refine ⟨_, hv.run.concat hcrcLo, hv.drops, rfl, hv.pLen, ?_, rfl, hv.pCrc⟩
  show Frame.mk (v.hdr.read 0) (v.hdr.read 1) (v.pay.take v.pLen) = f
  rw [Memory.read_of_take hv.hdr (by decide), Memory.read_of_take hv.hdr (by decide), hv.pLen,
    hv.pay]
  rfl

/-! ## The decisions -/

/-- The right last byte completes the frame (R157). -/
theorem ReceivedAllButLast.crcHiMatch {s t : State} {f : Frame} {lo hi : Byte}
    (ht : ReceivedAllButLast s f lo t) (hfit : f.payload.length ≤ maxPayload)
    (hcrc : joinLe16 lo hi = crc16 (crcDomain f)) :
    RxTransition hi t { (t.count .bytesRx).count .framesOk with pState := .waitSof0 } (some f) := by
  have hsame : joinLe16 t.crcLo hi = t.pCrc := by rw [ht.crcLo, ht.pCrc, hcrc]
  have hmatch := RxTransition.crcHiMatch ht.pState hsame (ht.pLen ▸ hfit)
  rwa [ht.fields] at hmatch

/-- A wrong last byte drops the frame (R157). -/
theorem ReceivedAllButLast.crcHiMismatch {s t : State} {f : Frame} {lo hi : Byte}
    (ht : ReceivedAllButLast s f lo t) (hcrc : joinLe16 lo hi ≠ crc16 (crcDomain f)) :
    RxTransition hi t { (t.count .bytesRx).count .framesBadCrc with pState := .waitSof0 } none :=
  .crcHiMismatch ht.pState (by rwa [ht.crcLo, ht.pCrc])

/-- A declared length above MAX_PAYLOAD drops the frame at the fourth header byte (R154). -/
theorem ReceivedHeader.oversize {s t : State} {ty sq lo hi : Byte}
    (ht : ReceivedHeader s [ty, sq, lo] t) (hbig : maxPayload < (joinLe16 lo hi).toNat) :
    RxTransition hi t { (t.count .bytesRx).count .framingErr with
      hdr := t.hdr.write 3 hi, hdrCnt := 4, pCrc := crcStep t.pCrc hi, pState := .waitSof0 } none :=
  .headerOversize ht.pState ht.hdrCnt _ (congrArg _ (ht.declared hi)) hbig

/-- Settles O42: in each case the bytes before the deciding one are received quietly, and the parser then
holds what `decode_frame` decides from. -/
theorem parserAgreesWithDecode : Obligations.ParserAgreesWithDecode := by
  intro s F hinv hp
  refine ⟨fun f hok => ⟨?accepted, fun e he => decodeFrameBytes_append_of_ok hok he⟩,
    fun hbad => ?badCrc, fun hlarge => ?oversize⟩
  case accepted =>
    obtain ⟨hfit, rfl⟩ := decodeFrameBytes_eq_ok_iff.mp hok
    obtain ⟨t, ht⟩ := exists_receivedAllButLast hinv hp hfit
      ((crc16 (crcDomain f)).extractLsb' 0 8)
    have hrun := ht.run.runOps_concat (ht.crcHiMatch hfit (joinLe16_extract _))
    rw [frameBytes_eq_frameWithCrc, frameWithCrc_eq_concat, ← List.length_dropLast,
      List.dropLast_concat]
    exact ⟨_, hrun, rfl⟩
  case badCrc =>
    obtain ⟨f, lo, hi, hfit, rfl⟩ := exists_frameWithCrc (.inr hbad)
    have hcrc : joinLe16 lo hi ≠ crc16 (crcDomain f) := fun hcrc => by
      rw [decodeFrameBytes_frameWithCrc s.cfg lo hi hfit, if_pos hcrc] at hbad
      cases hbad
    obtain ⟨t, ht⟩ := exists_receivedAllButLast hinv hp hfit lo
    have hdrop : t.stats.framesBadCrc = s.stats.framesBadCrc := congrArg Prod.fst ht.drops
    rw [frameWithCrc_eq_concat, ← List.length_dropLast, List.dropLast_concat]
    refine ⟨t, _, ht.run, hdrop, ht.run.concat (ht.crcHiMismatch hcrc), ?_, rfl⟩
    rw [← hdrop]
    rfl
  case oversize =>
    obtain ⟨ty, sq, lo, hi, rest, hbig, rfl⟩ := exists_header_of_payloadTooLarge hlarge
    obtain ⟨t, ht⟩ := exists_receivedHeader hinv hp [ty, sq, lo] le_rfl
    have hdrop : t.stats.framingErr = s.stats.framingErr := congrArg Prod.snd ht.drops
    refine ⟨t, _, ht.run, hdrop, ht.run.concat (ht.oversize hbig), ?_, rfl⟩
    rw [← hdrop]
    rfl

end Sys2Proof.Machine
end

section
/-! PROOFS. RX_BYTE as an operation (42_rx_parser R150 to R158, R161): its words, its effect in each of the
parser's states, the frame it emits and the ways back into the hunt. In every state the effect is a transition
of the parser (`RxTransition.exec_eq`). -/

namespace Sys2Proof.Machine

/-! ## The operation -/

/-- Where the parser's cursors are in range, every byte has a transition (R159). -/
theorem exists_rxTransition {s : State} (hs : s.ParserInv) (b : Byte) :
    ∃ u f, RxTransition b s u f := by
  obtain ⟨-, -, hpLen, hheader, hpayload, -⟩ := hs
  cases hstep : rxStep b s with
  | ok p => exact ⟨p.1, p.2, rxStep_cases hstep⟩
  | error e =>
    obtain ⟨hp, hc⟩ | ⟨hp, hc⟩ | ⟨-, hc⟩ := rxStep_error hstep
    · have := hheader hp
      omega
    · have := hpayload hp
      omega
    · omega

theorem decode_rxByte (b : Byte) (d : Data) :
    decode ⟨0x60000000#32 ||| b.zeroExtend 32, d⟩ = .ok (.rxByte b d) :=
  decode_of_fields (i := .rxByte b d) ⟨6, 0, 0, 0, b⟩ rfl
    (Fields.toWord_or_zeroExtend ⟨6, 0, 0, 0, 0⟩ rfl b)

theorem rxResponse_eq_quiet_or_frame (f : Option Frame) :
    rxResponse f = quiet ∨
      ∃ g : Frame, rxResponse f = ⟨.ok, packFrame g.payload.length g.ty g.sq, .bytes g.payload, .frame⟩ := by
  cases f with
  | none => exact .inl rfl
  | some g => exact .inr ⟨g, rfl⟩

/-- Settles O33: the byte is in the low bits of the word, the rest of its operation code matches no row, and
each transition answers OK. -/
theorem rxByteOperation : Obligations.RxByteOperation := by
  refine ⟨decode_rxByte, illegalUnless_of_row "RX_BYTE", fun b s hs => ?_⟩
  obtain ⟨u, f, htrans⟩ := exists_rxTransition hs b
  exact ⟨_, rxResponse f, htrans.exec_eq, rfl, rxResponse_status f, rxResponse_eq_quiet_or_frame f⟩

/-! ## The effect in each state -/

/-- The length the parser declares at the fourth header byte, from the third and the byte itself (R154). -/
theorem declared_hdr_write {m : Memory 8} (h : m.wf = true) (b : Byte) :
    (joinLe16 ((m.write 3 b).read 2) ((m.write 3 b).read 3)).toNat =
      (m.read 2).toNat + 256 * b.toNat := by
  rw [Memory.read_write_ne h b (by decide), Memory.read_write_self h, joinLe16_toNat]

/- In a namespace of their own, apart from the model's definitions of the same names. -/
namespace RxByte

/-- Settles O34: the two transitions of WAIT_SOF0. -/
theorem rxWaitSof0 : Obligations.RxWaitSof0 :=
  fun _ _ hp => ⟨fun hb => (RxTransition.sof0Match hp hb).exec_eq,
    fun hb => (RxTransition.sof0Stay hp hb).exec_eq⟩

/-- Settles O35: SOF0 is a byte like any other that is not SOF1. -/
theorem rxWaitSof1 : Obligations.RxWaitSof1 :=
  fun _ _ hp => ⟨fun hb => (RxTransition.sof1Match hp hb).exec_eq,
    fun hb => (RxTransition.sof1Mismatch hp hb).exec_eq⟩

/-- Settles O36: the two transitions of the fourth byte, the one that accepts split at length 0. -/
theorem rxHeader : Obligations.RxHeader := by
  intro b s hp hwf
  refine ⟨fun hc => (RxTransition.headerMore hp hc).exec_eq, fun hc L hL => ?_⟩
  have hdeclared := hL.trans (declared_hdr_write hwf b).symm
  refine ⟨fun hbig => (RxTransition.headerOversize hp hc L hdeclared hbig).exec_eq,
    fun hpos hfit => ?payload, fun hzero => ?empty⟩
  case payload =>
    have haccept := (RxTransition.headerAccept hp hc L hdeclared hfit).exec_eq
    rwa [if_neg hpos.ne'] at haccept
  case empty =>
    subst hzero
    exact (RxTransition.headerAccept hp hc 0 hdeclared (Nat.zero_le _)).exec_eq

/-- Settles O37: `p_len` bounds the cursor, so the byte has its transition. -/
theorem rxPayload : Obligations.RxPayload :=
  fun _ _ hp hc hfit => (RxTransition.payload hp (Nat.lt_of_lt_of_le hc hfit)).exec_eq

/-- Settles O38: the one transition of CRC_LO. -/
theorem rxCrcLo : Obligations.RxCrcLo := fun _ _ hp => (RxTransition.crcLo hp).exec_eq

/-- Settles O39: the frame emitted has as many payload bytes as `p_len` says. -/
theorem rxCrcHi : Obligations.RxCrcHi := by
  intro b s hp
  refine ⟨fun hcrc hfit => ?accepted, fun hcrc => ?dropped⟩
  case accepted =>
    have haccept := (RxTransition.crcHiMatch hp ((joinLe16_eq_iff _ _ _).mpr hcrc) hfit).exec_eq
    simpa only [rxResponse, Memory.length_take] using haccept
  case dropped =>
    exact (RxTransition.crcHiMismatch hp (mt (joinLe16_eq_iff _ _ _).mp hcrc)).exec_eq

end RxByte

/-! ## The frame emitted -/

theorem le16_joinLe16 (lo hi : Byte) : le16 (joinLe16 lo hi) = [lo, hi] := by
  simp [le16]

/-- The CRC domain of the frame the buffers hold is the header and the payload received (30_encoding R82). -/
theorem crcDomain_of_buffers {s : State}
    (h : s.pLen = (joinLe16 (s.hdr.read 2) (s.hdr.read 3)).toNat) :
    crcDomain ⟨s.hdr.read 0, s.hdr.read 1, s.pay.take s.pLen⟩ = s.hdr.take 4 ++ s.pay.take s.pLen := by
  have hlen : BitVec.ofNat 16 (s.pay.take s.pLen).length = joinLe16 (s.hdr.read 2) (s.hdr.read 3) := by
    rw [Memory.length_take, h, BitVec.ofNat_toNat, BitVec.setWidth_eq]
  rw [crcDomain, hlen, le16_joinLe16]
  rfl

/-- A transition that completes a frame completes one whose CRC is the one received. -/
theorem RxTransition.crc16_crcDomain {b : Byte} {s u : State} {f : Frame}
    (h : RxTransition b s u (some f)) (hs : s.ParserInv) (hcrc : s.CrcInv) :
    f.payload.length ≤ maxPayload ∧ crc16 (crcDomain f) = joinLe16 s.crcLo b := by
  obtain ⟨-, -, -, -, -, hcount⟩ := hs
  obtain ⟨-, hbody⟩ := hcrc
  cases h with
  | crcHiMatch hp hmatch hfit =>
    obtain ⟨hrunning, hlen⟩ := hbody (.inr (.inr hp))
    rw [hcount (.inr hp)] at hrunning
    refine ⟨(Memory.length_take _ _).trans_le hfit, ?_⟩
    rw [crcDomain_of_buffers hlen, ← hrunning, hmatch]

/-- Settles O40: only a transition that completes a frame answers with the event. -/
theorem emittedFrameHasItsCrc : Obligations.EmittedFrameHasItsCrc := by
  intro b s t r hinv hcrc h hr hevent
  obtain ⟨-, hparser, -⟩ := hinv
  cases exec_cases h with
  | failed =>
    obtain rfl := Option.some.inj hr
    cases hevent
  | rxByte _ u f htrans =>
    obtain rfl := Option.some.inj hr
    cases f with
    | none => cases hevent
    | some f =>
      obtain ⟨hfit, hsame⟩ := htrans.crc16_crcDomain hparser hcrc
      exact ⟨f, hfit, rfl, hsame⟩

/-! ## Back to the hunt -/

/-- The transitions into WAIT_SOF0 from another state (R158). -/
theorem RxTransition.into_waitSof0 {b : Byte} {s u : State} {f : Option Frame}
    (h : RxTransition b s u f) (hwf : s.hdr.wf = true) (hs : s.pState ≠ .waitSof0)
    (hu : u.pState = .waitSof0) :
    (s.pState = .waitSof1 ∧ b ≠ s.cfg.sof1) ∨
      (s.pState = .header ∧ s.hdrCnt = 3 ∧ 576 < (s.hdr.read 2).toNat + 256 * b.toNat) ∨
      s.pState = .crcHi := by
  cases h with
  | sof0Match hp | sof0Stay hp => exact absurd hp hs
  | sof1Match | crcLo => cases hu
  | sof1Mismatch hp hb => exact .inl ⟨hp, hb⟩
  | headerMore hp => exact absurd hu hs
  | headerOversize hp hc L hL hbig =>
    exact .inr (.inl ⟨hp, hc, declared_hdr_write hwf b ▸ hL ▸ hbig⟩)
  | headerAccept | payload =>
    dsimp only at hu
    split at hu <;> cases hu
  | crcHiMatch hp | crcHiMismatch hp => exact .inr (.inr hp)

/-- Settles O41: SOFT_RESET and the parser's transitions; no other operation writes the parser's state (O11). -/
theorem waysBackToHunting : Obligations.WaysBackToHunting := by
  intro i s t hwf h hs ht
  obtain ⟨-, -, hparser, -⟩ := stateWrittenOnlyBy i s t h
  cases exec_cases h with
  | rxByte b u f hrx => exact .inr ⟨b, rfl, hrx.into_waitSof0 hwf hs ht⟩
  | softReset => exact .inl rfl
  | failed => exact absurd ht hs
  | _ =>
    obtain ⟨hsame, -⟩ := hparser nofun nofun
    exact absurd (hsame.symm.trans ht) hs

end Sys2Proof.Machine
end

section
/-! PROOFS. The invariants of the block (42_rx_parser R159, 10_state R22 to R24 and R35, 20_memory R60, 43_vad
R184): each part of them is kept by the operations that write that part of the state, and by the others
because they leave it alone (O11). -/

namespace Sys2Proof.Machine

/-! ## From operations to steps -/

/-- A property that does not depend on the queue and the last response, and that every operation keeps, is
kept by every step: a step takes a command off the queue and is an operation or fails. -/
theorem step_preserves {P : State → Prop} (hport : ∀ s q r, P s → P (s.withPort q r))
    (hexec : ∀ i s t, P s → exec i s = .next t → P t) {s t : State} (hs : P s)
    (h : step s = .next t) : P t := by
  cases hp : s.pending with
  | nil =>
    rw [step_of_pending_nil hp] at h
    cases h
    exact hs
  | cons c cs =>
    rw [step_of_pending_cons hp] at h
    have htaken : P { s with pending := cs } := hport s cs s.resp hs
    cases hd : decode c with
    | ok i => exact hexec i _ t htaken (issue_of_decode_ok hd _ ▸ h)
    | error e =>
      rw [issue_of_decode_error hd] at h
      cases h
      exact hport _ _ _ htaken

/-- No operation changes a parameter of the build (70_reset_and_hazards R283). -/
theorem exec_cfg {i : Instr} {s t : State} (h : exec i s = .next t) : t.cfg = s.cfg := by
  cases exec_cases h with
  | rxByte b u f hrx => rw [hrx.frame]
  | vadChunk xs => rw [State.vadAfter_frame]
  | ringPush xs => rw [State.push_frame]; rfl
  | ringPull n => rw [State.pull_frame]; rfl
  | bufComplete => rw [State.swapRefill_frame]; rfl
  | cfgWrite x v u hreg => rw [State.setCfgReg_frame hreg]; rfl
  | _ => rfl

/-! ## The parser's cursors -/

theorem State.ParserInv.congr {s t : State} (h : s.ParserInv)
    (hparser : t.pState = s.pState ∧ t.hdrCnt = s.hdrCnt ∧ t.payCnt = s.payCnt ∧ t.pLen = s.pLen) :
    t.ParserInv := by
  obtain ⟨hstate, hhdrCnt, hpayCnt, hpLen⟩ := hparser
  rw [State.ParserInv, hstate, hhdrCnt, hpayCnt, hpLen]
  exact h

/-- In the hunt the parser's cursors need only be in their ranges. -/
theorem State.parserInv_of_waitSof {s : State} (h : s.pState = .waitSof0 ∨ s.pState = .waitSof1)
    (hhdr : s.hdrCnt ≤ 4) (hpay : s.payCnt ≤ maxPayload) (hlen : s.pLen ≤ maxPayload) :
    s.ParserInv := by
  obtain h | h := h <;> simp [State.ParserInv, h, hhdr, hpay, hlen]

/-- In HEADER the header buffer has room for the next byte. -/
theorem State.parserInv_of_header {s : State} (h : s.pState = .header) (hhdr : s.hdrCnt ≤ 3)
    (hpay : s.payCnt ≤ maxPayload) (hlen : s.pLen ≤ maxPayload) : s.ParserInv := by
  simp [State.ParserInv, h, hhdr, hpay, hlen, hhdr.trans (by decide : 3 ≤ 4)]

/-- At the end of the header, and after each payload byte, the parser expects payload bytes exactly when
some are missing. -/
theorem State.parserInv_of_body {s : State} (hhdr : s.hdrCnt ≤ 4) (hcount : s.payCnt ≤ s.pLen)
    (hlen : s.pLen ≤ maxPayload)
    (hstate : s.pState = if s.payCnt = s.pLen then .crcLo else .payload) : s.ParserInv := by
  refine ⟨hhdr, hcount.trans hlen, hlen, ?_⟩
  split at hstate
  case isTrue hall => simpa [hstate] using hall
  case isFalse hmissing => simpa [hstate] using Nat.lt_of_le_of_ne hcount hmissing

/-- One byte keeps the parser's cursors in range (R159). -/
theorem RxTransition.parserInv {b : Byte} {s u : State} {f : Option Frame} (h : RxTransition b s u f)
    (hs : s.ParserInv) : u.ParserInv := by
  obtain ⟨hhdr, hpay, hlen, hheader, hpayload, hcrc⟩ := hs
  cases h with
  | sof0Match | sof1Mismatch | crcHiMatch | crcHiMismatch =>
    exact State.parserInv_of_waitSof (by simp) hhdr hpay hlen
  | sof0Stay hp => exact State.parserInv_of_waitSof (.inl hp) hhdr hpay hlen
  | headerOversize => exact State.parserInv_of_waitSof (.inl rfl) le_rfl hpay hlen
  | sof1Match => exact State.parserInv_of_header rfl (Nat.zero_le _) hpay hlen
  | headerMore hp hc => exact State.parserInv_of_header hp (Nat.succ_le_of_lt hc) hpay hlen
  | headerAccept hp hc L hL hfit =>
    exact State.parserInv_of_body le_rfl (Nat.zero_le L) hfit (by simp only [eq_comm])
  | payload hp => exact State.parserInv_of_body hhdr (hpayload hp) hlen rfl
  | crcLo hp => exact ⟨hhdr, hpay, hlen, nofun, nofun, fun _ => hcrc (.inl hp)⟩

theorem State.powerOn_parserInv (c : Config) : (State.powerOn c).ParserInv :=
  State.parserInv_of_waitSof (.inl rfl) (Nat.zero_le _) (Nat.zero_le _) (Nat.zero_le _)

theorem exec_parserInv {i : Instr} {s t : State} (hs : s.ParserInv) (h : exec i s = .next t) :
    t.ParserInv := by
  obtain ⟨-, -, hparser, -⟩ := stateWrittenOnlyBy i s t h
  cases exec_cases h with
  | rxByte b u f hrx => exact (hrx.parserInv hs : u.ParserInv)
  | softReset =>
    exact State.parserInv_of_waitSof (.inl rfl) (Nat.zero_le _) (Nat.zero_le _) (Nat.zero_le _)
  | failed => exact hs
  | _ =>
    obtain ⟨hstate, hhdrCnt, hpayCnt, hpLen, -⟩ := hparser nofun nofun
    exact hs.congr ⟨hstate, hhdrCnt, hpayCnt, hpLen⟩

/-- RX_BYTE stops in no state whose cursors are in range: it fails, or it takes a transition. -/
theorem exec_rxByte_ne_fault {s : State} (hs : s.ParserInv) (b : Byte) (d : Data) (e : Fault) :
    exec (.rxByte b d) s ≠ .fault e := by
  by_cases hwf : (Instr.rxByte b d).WellFormed
  · obtain rfl := data_eq_none_of_kind hwf
    obtain ⟨u, f, htrans⟩ := exists_rxTransition hs b
    rw [htrans.exec_eq]
    exact nofun
  · rw [exec_illformed hwf]
    exact nofun

/-- Settles O16: every operation keeps the bounds, and so does every step; within them each byte has a
transition. -/
theorem parserBoundsKept : Obligations.ParserBoundsKept :=
  ⟨State.powerOn_parserInv, fun _ hs => ⟨fun _ _ => exec_parserInv hs,
    fun _ => step_preserves (fun _ _ _ => id) (fun _ _ _ => exec_parserInv) hs,
    exec_rxByte_ne_fault hs⟩⟩

/-! ## The arrays -/

/-- The array is in canonical form and inside its `n` elements (20_memory R60): a part of `State.MemInv`. -/
def Memory.Fits {w : Nat} (n : Nat) (m : Memory w) : Prop := m.wf = true ∧ m.within n = true

theorem State.memInv_iff (s : State) : s.MemInv ↔
    Memory.Fits 4 s.hdr ∧ Memory.Fits maxPayload s.pay ∧ Memory.Fits s.cfg.ringCap s.ring ∧
      Memory.Fits s.cfg.outBufSamples s.obuf0 ∧ Memory.Fits s.cfg.outBufSamples s.obuf1 := Iff.rfl

theorem Memory.Fits.write {w n i : Nat} {m : Memory w} (h : m.Fits n) (hi : i < n) (v : BitVec w) :
    (m.write i v).Fits n := ⟨Memory.wf_write h.1 i v, Memory.within_write h.2 v hi⟩

theorem Memory.fits_ofListFrom {w n : Nat} {xs : List (BitVec w)} (h : xs.length = n) :
    (Memory.ofListFrom 0 xs).Fits n :=
  ⟨Memory.wf_ofListFrom xs 0, Memory.within_ofListFrom xs 0 (by omega)⟩

/-- A byte goes to the header or the payload buffer, at an index inside it (R159). -/
theorem RxTransition.buffersFit {b : Byte} {s u : State} {f : Option Frame} (h : RxTransition b s u f)
    (hhdr : s.hdr.Fits 4) (hpay : s.pay.Fits maxPayload) : u.hdr.Fits 4 ∧ u.pay.Fits maxPayload := by
  cases h with
  | headerMore hp hc => exact ⟨hhdr.write (by omega) b, hpay⟩
  | headerOversize | headerAccept => exact ⟨hhdr.write (by decide) b, hpay⟩
  | payload hp hc => exact ⟨hhdr, hpay.write hc b⟩
  | _ => exact ⟨hhdr, hpay⟩

theorem exec_buffersFit {i : Instr} {s t : State} (hhdr : s.hdr.Fits 4) (hpay : s.pay.Fits maxPayload)
    (h : exec i s = .next t) : t.hdr.Fits 4 ∧ t.pay.Fits maxPayload := by
  obtain ⟨-, hbuf, -⟩ := stateWrittenOnlyBy i s t h
  cases exec_cases h with
  | rxByte b u f hrx => exact hrx.buffersFit hhdr hpay
  | failed => exact ⟨hhdr, hpay⟩
  | _ =>
    obtain ⟨hsameHdr, hsamePay⟩ := hbuf nofun
    exact ⟨hsameHdr ▸ hhdr, hsamePay ▸ hpay⟩

/-- Both output buffers fit. -/
def State.ObufsFit (s : State) : Prop :=
  s.obuf0.Fits s.cfg.outBufSamples ∧ s.obuf1.Fits s.cfg.outBufSamples

theorem State.ObufsFit.congr {s t : State} (h : s.ObufsFit) (hcfg : t.cfg = s.cfg)
    (h0 : t.obuf0 = s.obuf0) (h1 : t.obuf1 = s.obuf1) : t.ObufsFit := by
  rw [State.ObufsFit, hcfg, h0, h1]
  exact h

/-- A buffer is refilled with as many samples as it has elements (44_audio_ring R205). -/
theorem State.ObufsFit.setObuf {s : State} (h : s.ObufsFit) (b : Fin 2) {xs : List Sample}
    (hlen : xs.length = s.cfg.outBufSamples) : (s.setObuf b xs).ObufsFit := by
  unfold State.setObuf
  split
  · exact ⟨Memory.fits_ofListFrom hlen, h.2⟩
  · exact ⟨h.1, Memory.fits_ofListFrom hlen⟩

theorem State.ObufsFit.pull {s : State} (h : s.ObufsFit) (n : Nat) : (s.pull n).2.ObufsFit := by
  rw [State.pull_frame]
  exact h

theorem State.ObufsFit.swapRefill {s : State} (h : s.ObufsFit) : s.swapRefill.ObufsFit := by
  have hpulled := State.ObufsFit.pull (s := { s with active := 1 - s.active }) h s.cfg.outBufSamples
  refine hpulled.setObuf _ ?_
  rw [State.pull_length, State.pull_frame]

theorem exec_obufsFit {i : Instr} {s t : State} (hs : s.ObufsFit) (h : exec i s = .next t) :
    t.ObufsFit := by
  obtain ⟨-, -, -, -, -, -, -, hobuf, -⟩ := stateWrittenOnlyBy i s t h
  cases exec_cases h with
  | bufComplete => exact (hs.swapRefill : s.swapRefill.ObufsFit)
  | failed => exact hs
  | _ =>
    obtain ⟨h0, h1, -⟩ := hobuf nofun
    exact hs.congr (exec_cfg h) h0 h1

/-! ## The ring -/

/-- The ring's cursors are inside it and its array fits (10_state R34, R35). -/
def State.RingFits (s : State) : Prop := s.RingInv ∧ s.ring.Fits s.cfg.ringCap

theorem State.RingFits.congr {s t : State} (h : s.RingFits) (hcfg : t.cfg = s.cfg)
    (hring : t.ring = s.ring) (hwr : t.wr = s.wr) (hrd : t.rd = s.rd) : t.RingFits := by
  rw [State.RingFits, State.RingInv, hcfg, hring, hwr, hrd]
  exact h

theorem State.RingFits.push {s : State} (h : s.RingFits) (xs : List Sample) :
    (s.push xs).RingFits := by
  obtain ⟨hcursors, hwf, hwithin⟩ := h
  obtain ⟨hnext, hwf', hwithin', -⟩ := State.push_spec xs hcursors hwf hwithin
  have hpos : 0 < s.cfg.ringCap := Nat.zero_lt_of_lt hcursors.1
  refine ⟨?cursors, hwf', ?within⟩
  case cursors =>
    rw [hnext]
    exact ⟨Nat.mod_lt _ hpos, hcursors.2⟩
  case within =>
    rw [State.push_frame]
    exact hwithin'

theorem State.RingFits.pull {s : State} (h : s.RingFits) (n : Nat) : (s.pull n).2.RingFits := by
  obtain ⟨hcursors, hfits⟩ := h
  rw [(State.pull_spec n hcursors).2]
  exact ⟨⟨hcursors.1, Nat.mod_lt _ (Nat.zero_lt_of_lt hcursors.1)⟩, hfits⟩

theorem State.RingFits.swapRefill {s : State} (h : s.RingFits) : s.swapRefill.RingFits := by
  have hpulled := State.RingFits.pull (s := { s with active := 1 - s.active }) h s.cfg.outBufSamples
  rw [State.swapRefill, State.setObuf_frame]
  exact hpulled

theorem exec_ringFits {i : Instr} {s t : State} (hs : s.RingFits) (h : exec i s = .next t) :
    t.RingFits := by
  obtain ⟨-, -, -, -, -, hwrite, hread, -⟩ := stateWrittenOnlyBy i s t h
  cases exec_cases h with
  | ringPush xs => exact (hs.push xs : (s.push xs).RingFits)
  | ringPull n => exact (hs.pull n.toNat : (s.pull n.toNat).2.RingFits)
  | bufComplete => exact (hs.swapRefill : s.swapRefill.RingFits)
  | failed => exact hs
  | _ =>
    obtain ⟨hring, hwr⟩ := hwrite nofun
    exact hs.congr (exec_cfg h) hring hwr (hread nofun nofun)

/-! ## The VAD runs -/

theorem State.updateRuns_vadInv (s : State) (voice : Bool) : (s.updateRuns voice).VadInv := by
  cases voice with
  | true => exact .inr rfl
  | false => exact .inl rfl

theorem State.VadInv.flip {s : State} (h : s.VadInv) : s.flip.1.VadInv := by
  unfold State.flip
  split_ifs <;> exact h

theorem exec_vadInv {i : Instr} {s t : State} (hs : s.VadInv) (h : exec i s = .next t) :
    t.VadInv := by
  obtain ⟨-, -, -, hvad, -⟩ := stateWrittenOnlyBy i s t h
  cases exec_cases h with
  | vadChunk xs => exact State.VadInv.flip (s.updateRuns_vadInv (isVoice s xs))
  | softReset => exact .inl rfl
  | failed => exact hs
  | _ =>
    obtain ⟨hpos, hneg, -⟩ := hvad nofun nofun
    rw [State.VadInv, hpos, hneg]
    exact hs

/-! ## The whole invariant -/

/-- Every operation keeps the invariants, part by part. -/
theorem exec_inv {i : Instr} {s t : State} (hs : s.Inv) (h : exec i s = .next t) : t.Inv := by
  obtain ⟨hlegal, hparser, hcursors, hmem, hvad⟩ := hs
  obtain ⟨hhdr, hpay, hring, hobufs⟩ := s.memInv_iff.mp hmem
  obtain ⟨hhdr', hpay'⟩ := exec_buffersFit hhdr hpay h
  obtain ⟨hcursors', hring'⟩ := exec_ringFits ⟨hcursors, hring⟩ h
  exact ⟨exec_cfg h ▸ hlegal, exec_parserInv hparser h, hcursors',
    t.memInv_iff.mpr ⟨hhdr', hpay', hring', exec_obufsFit hobufs h⟩, exec_vadInv hvad h⟩

/-- Settles O14: the invariants do not depend on the queue or the last response. -/
theorem stepKeepsInvariant : Obligations.StepKeepsInvariant :=
  fun _ _ hs h => step_preserves (P := State.Inv) (fun _ _ _ => id) (fun _ _ _ => exec_inv) hs h

end Sys2Proof.Machine
end

section
/-! PROOFS. VAD_CHUNK and runs of it (43_vad R181 to R187): the energy of a chunk, what one chunk does to the
runs and the latch, and the chunks that bring the latch to flip. -/

namespace Sys2Proof.Machine

/-! ## The energy -/

theorem absSample_le (x : Sample) : absSample x ≤ 32768 := by
  have hlow := BitVec.le_toInt x
  have hhigh := BitVec.toInt_lt (x := x)
  rw [absSample]
  omega

theorem sumAbs_le (xs : List Sample) : sumAbs xs ≤ xs.length * 32768 := by
  have hsum := List.sum_le_card_nsmul (xs.map absSample) 32768
    (List.forall_mem_map.mpr fun x _ => absSample_le x)
  rwa [List.length_map] at hsum

/-- The average of a chunk of the right length is at most the largest absolute value. -/
theorem avgAbs_le {s : State} {xs : List Sample} (hlen : xs.length = s.chunkSamples.toNat) :
    avgAbs s xs ≤ 32768 :=
  Nat.div_le_of_le_mul (hlen ▸ sumAbs_le xs)

theorem isVoice_iff (s : State) (xs : List Sample) :
    isVoice s xs = true ↔ s.vadThreshold.toNat < avgAbs s xs := decide_eq_true_iff

/-- Settles O44: each absolute value is at most 32768, and a chunk has at most 65535 of them. -/
theorem vadEnergy : Obligations.VadEnergy := by
  intro s xs _ hlen
  have havg : avgAbs s xs ≤ 32768 := avgAbs_le hlen
  refine ⟨isVoice_iff s xs, ?sum, havg, fun hmax => ?max, fun hzero => ?zero, by decide⟩
  case sum =>
    have hsum : sumAbs xs ≤ 2147450880 := by
      have := sumAbs_le xs
      have := s.chunkSamples.isLt
      omega
    exact hsum
  case max =>
    rw [← Bool.not_eq_true, isVoice_iff, hmax]
    exact Nat.not_lt.mpr (havg.trans (by decide))
  case zero =>
    rw [isVoice_iff, hzero]
    rfl

/-! ## The run that applies, the count it has to reach, and the flip -/

/-- The run of chunks with voice, or of those without it (R184). -/
def State.run (s : State) : Bool → Half
  | true => s.posRun
  | false => s.negRun

/-- The length at which that run flips the latch to its side (R185). -/
def State.runCount (s : State) : Bool → Half
  | true => s.vadPosCount
  | false => s.vadNegCount

theorem State.run_eq_ite (s : State) (v : Bool) : s.run v = if v then s.posRun else s.negRun := by
  cases v <;> rfl

theorem State.updateRuns_run (s : State) (v w : Bool) : (s.updateRuns v).run w =
    if v = w then sat 16 ((s.run w).toNat + 1) else 0 := by
  cases v <;> cases w <;> rfl

theorem State.updateRuns_frame (s : State) (v : Bool) : s.updateRuns v = { s with
    posRun := (s.updateRuns v).posRun, negRun := (s.updateRuns v).negRun } := by
  cases v <;> rfl

@[simp] theorem State.updateRuns_latched (s : State) (v : Bool) :
    (s.updateRuns v).latched = s.latched := by
  rw [State.updateRuns_frame]

@[simp] theorem State.updateRuns_vadPosCount (s : State) (v : Bool) :
    (s.updateRuns v).vadPosCount = s.vadPosCount := by
  rw [State.updateRuns_frame]

@[simp] theorem State.updateRuns_vadNegCount (s : State) (v : Bool) :
    (s.updateRuns v).vadNegCount = s.vadNegCount := by
  rw [State.updateRuns_frame]

@[simp] theorem State.updateRuns_runCount (s : State) (v w : Bool) :
    (s.updateRuns v).runCount w = s.runCount w := by
  rw [State.updateRuns_frame]
  rfl

/-- R185 for both sides at once: the latch can only go to the side it is not on, and goes there when that
side's run has its length. -/
theorem State.flip_eq (s : State) : s.flip =
    if (s.runCount !s.latched).toNat ≤ (s.run !s.latched).toNat then
      ({ s with latched := !s.latched }, some (!s.latched, s.run !s.latched))
    else (s, none) := by
  unfold State.flip
  cases s.latched <;> simp [State.run, State.runCount, BitVec.le_def]

theorem State.flip_frame (s : State) : s.flip.1 = { s with latched := s.flip.1.latched } := by
  rw [State.flip_eq]
  split <;> rfl

theorem State.flip_run (s : State) (w : Bool) : s.flip.1.run w = s.run w := by
  rw [State.flip_frame]
  rfl

theorem State.flip_latched (s : State) : s.flip.1.latched =
    if s.latched = false ∧ s.vadPosCount.toNat ≤ s.flip.1.posRun.toNat then true
    else if s.latched = true ∧ s.vadNegCount.toNat ≤ s.flip.1.negRun.toNat then false
    else s.latched := by
  have hpos : s.flip.1.posRun = s.posRun := s.flip_run true
  have hneg : s.flip.1.negRun = s.negRun := s.flip_run false
  rw [hpos, hneg]
  unfold State.flip
  simp only [BitVec.le_def]
  split_ifs <;> rfl

/-- R186: a flip is answered with the new latch and the run of its side. -/
theorem State.flip_response (s : State) : vadResponse s.flip.2 =
    if s.flip.1.latched = s.latched then quiet
    else ⟨.ok, packVad s.flip.1.latched (s.flip.1.run s.flip.1.latched), .none, .vadStatus⟩ := by
  rw [State.flip_run, State.flip_eq]
  split
  · exact (if_neg (Bool.not_ne_self s.latched)).symm
  · exact (if_pos rfl).symm

/-! ## One chunk -/

/-- Settles O43: the length check comes first. -/
theorem vadChunkLengthCheck : Obligations.VadChunkLengthCheck := fun _ _ hbad => if_pos hbad

theorem exec_vadChunk_of_length {s : State} {xs : List Sample} (hpos : s.chunkSamples ≠ 0)
    (hlen : xs.length = s.chunkSamples.toNat) : exec (.vadChunk (.samples xs)) s =
      .next { (s.vadAfter xs).1 with resp := some (vadResponse (s.vadAfter xs).2) } := by
  refine (if_neg (not_or.mpr ⟨hpos, not_not.mpr hlen⟩)).trans ?_
  unfold State.vadAfter
  obtain ⟨u, _ | ⟨l, run⟩⟩ := (s.updateRuns (isVoice s xs)).flip <;> rfl

/-- R184: the run of the chunk's kind goes up by one, saturating, and the other is 0. -/
theorem State.vadAfter_run_toNat (s : State) (xs : List Sample) (w : Bool) :
    ((s.vadAfter xs).1.run w).toNat =
      if isVoice s xs = w then min ((s.run w).toNat + 1) 0xFFFF else 0 := by
  rw [State.vadAfter, State.flip_run, State.updateRuns_run, apply_ite BitVec.toNat, sat_toNat]
  rfl

theorem State.vadAfter_latched (s : State) (xs : List Sample) : (s.vadAfter xs).1.latched =
    if s.latched = false ∧ s.vadPosCount.toNat ≤ (s.vadAfter xs).1.posRun.toNat then true
    else if s.latched = true ∧ s.vadNegCount.toNat ≤ (s.vadAfter xs).1.negRun.toNat then false
    else s.latched := by
  rw [State.vadAfter, State.flip_latched, State.updateRuns_latched, State.updateRuns_vadPosCount,
    State.updateRuns_vadNegCount]

theorem State.vadAfter_response (s : State) (xs : List Sample) : vadResponse (s.vadAfter xs).2 =
    if (s.vadAfter xs).1.latched = s.latched then quiet
    else ⟨.ok, packVad (s.vadAfter xs).1.latched ((s.vadAfter xs).1.run (s.vadAfter xs).1.latched),
      .none, .vadStatus⟩ := by
  rw [State.vadAfter, State.flip_response, State.updateRuns_latched]

theorem decode_vadChunk (d : Data) : decode ⟨0x70000000#32, d⟩ = .ok (.vadChunk d) :=
  decode_of_fields (i := .vadChunk d) ⟨7, 0, 0, 0, 0⟩ rfl (by decide)

/-- Settles O45: the effect is the update of the runs followed by the flip, each with its own rule. -/
theorem vadChunkOperation : Obligations.VadChunkOperation := by
  refine ⟨decode_vadChunk, illegalUnless_of_row "VAD_CHUNK", fun s xs hpos hlen =>
    ⟨_, exec_vadChunk_of_length hpos hlen, ?posRun, ?negRun, ?oneZero, ?latched, ?response, ?frame⟩⟩
  case posRun => exact s.vadAfter_run_toNat xs true
  case negRun =>
    refine (s.vadAfter_run_toNat xs false).trans ?_
    cases isVoice s xs <;> rfl
  case oneZero => exact State.VadInv.flip (s.updateRuns_vadInv (isVoice s xs))
  case latched => exact s.vadAfter_latched xs
  case response =>
    refine congrArg some ((s.vadAfter_response xs).trans ?_)
    rw [State.run_eq_ite]
  case frame => rw [State.vadAfter_frame]

/-! ## Chunks that bring the latch to flip -/

/-- The latch is not on side `v`, and the chunks, of the right length, all count for that side. -/
structure FeedsRun (v : Bool) (chunks : List (List Sample)) (s : State) : Prop where
  latched : s.latched = !v
  chunkSamples_ne_zero : s.chunkSamples ≠ 0
  chunk : ∀ x ∈ chunks, x.length = s.chunkSamples.toNat ∧ isVoice s x = v

theorem FeedsRun.exec_head {v : Bool} {x : List Sample} {xs : List (List Sample)} {s : State}
    (h : FeedsRun v (x :: xs) s) : exec (.vadChunk (.samples x)) s =
      .next { (s.updateRuns v).flip.1 with resp := some (vadResponse (s.updateRuns v).flip.2) } := by
  obtain ⟨hlen, hvoice⟩ := h.chunk x List.mem_cons_self
  rw [exec_vadChunk_of_length h.chunkSamples_ne_zero hlen, State.vadAfter, hvoice]

/-- The state after a chunk that counts for side `v` and flips nothing. -/
def State.countChunk (s : State) (v : Bool) : State := (s.updateRuns v).okWith 0 .none

/-- The state after the chunk that brings the run of side `v` to its length. -/
def State.completeRun (s : State) (v : Bool) : State :=
  { s.updateRuns v with
    latched := v, resp := some ⟨.ok, packVad v (s.runCount v), .none, .vadStatus⟩ }

theorem State.countChunk_frame (s : State) (v : Bool) : s.countChunk v = { s with
    posRun := (s.updateRuns v).posRun, negRun := (s.updateRuns v).negRun, resp := some quiet } := by
  rw [State.countChunk, State.updateRuns_frame]
  rfl

theorem State.countChunk_runCount (s : State) (v : Bool) :
    (s.countChunk v).runCount v = s.runCount v := by
  rw [State.countChunk_frame]
  rfl

section
variable {v : Bool} {x : List Sample} {xs : List (List Sample)} {s : State}

/-- Below the count nothing saturates: the count is a 16-bit value. -/
theorem State.updateRuns_run_toNat (hle : (s.run v).toNat + 1 ≤ (s.runCount v).toNat) :
    ((s.updateRuns v).run v).toNat = (s.run v).toNat + 1 := by
  have hcount := (s.runCount v).isLt
  rw [State.updateRuns_run, if_pos rfl, sat_toNat]
  omega

theorem FeedsRun.flip_updateRuns (h : FeedsRun v (x :: xs) s) : (s.updateRuns v).flip =
    if (s.runCount v).toNat ≤ ((s.updateRuns v).run v).toNat then
      ({ s.updateRuns v with latched := v }, some (v, (s.updateRuns v).run v))
    else (s.updateRuns v, none) := by
  rw [State.flip_eq, s.updateRuns_latched, h.latched, Bool.not_not, s.updateRuns_runCount]

/-- A chunk that leaves the run short of its length is counted, and nothing is emitted. -/
theorem FeedsRun.exec_head_of_lt (h : FeedsRun v (x :: xs) s)
    (hlt : (s.run v).toNat + 1 < (s.runCount v).toNat) :
    exec (.vadChunk (.samples x)) s = .next (s.countChunk v) := by
  have hshort : ¬ (s.runCount v).toNat ≤ ((s.updateRuns v).run v).toNat := by
    rw [State.updateRuns_run_toNat hlt.le]
    omega
  rw [h.exec_head, h.flip_updateRuns, if_neg hshort]
  rfl

/-- The chunk that brings the run to its length flips the latch and is answered with VAD_STATUS. -/
theorem FeedsRun.exec_head_of_eq (h : FeedsRun v (x :: xs) s)
    (heq : (s.run v).toNat + 1 = (s.runCount v).toNat) :
    exec (.vadChunk (.samples x)) s = .next (s.completeRun v) := by
  have hrun : (s.updateRuns v).run v = s.runCount v :=
    BitVec.eq_of_toNat_eq ((State.updateRuns_run_toNat heq.le).trans heq)
  rw [h.exec_head, h.flip_updateRuns, hrun, if_pos le_rfl]
  rfl

/-- Counting a chunk leaves what the next ones are judged by. -/
theorem FeedsRun.tail (h : FeedsRun v (x :: xs) s) : FeedsRun v xs (s.countChunk v) := by
  rw [State.countChunk_frame]
  exact ⟨h.latched, h.chunkSamples_ne_zero, (List.forall_mem_cons.mp h.chunk).2⟩

theorem State.countChunk_run_toNat (hle : (s.run v).toNat + 1 ≤ (s.runCount v).toNat) :
    ((s.countChunk v).run v).toNat = (s.run v).toNat + 1 :=
  State.updateRuns_run_toNat hle

end

/-- VAD_CHUNK on each chunk. -/
def vadChunkOps (chunks : List (List Sample)) : List Instr :=
  chunks.map fun x => .vadChunk (.samples x)

theorem vadChunkOps_cons (x : List Sample) (xs : List (List Sample)) :
    vadChunkOps (x :: xs) = .vadChunk (.samples x) :: vadChunkOps xs := rfl

theorem vadChunkOps_append (a b : List (List Sample)) :
    vadChunkOps (a ++ b) = vadChunkOps a ++ vadChunkOps b := List.map_append

section
variable {v : Bool} {chunks rest : List (List Sample)} {s : State}

/-- R187 (d): chunks that leave the run short of its length are counted, emit nothing, and leave the
latch and what the next chunks are judged by. -/
theorem FeedsRun.exists_quiet_run (h : FeedsRun v (chunks ++ rest) s)
    (hlt : (s.run v).toNat + chunks.length < (s.runCount v).toNat) :
    ∃ t, (t.run v).toNat = (s.run v).toNat + chunks.length ∧ t.runCount v = s.runCount v ∧
      FeedsRun v rest t ∧
      runOps (vadChunkOps chunks) s = some (t, List.replicate chunks.length quiet) := by
  induction chunks generalizing s with
  | nil => exact ⟨s, rfl, rfl, h, rfl⟩
  | cons x xs ih =>
    rw [List.length_cons] at hlt
    have hhead : (s.run v).toNat + 1 < (s.runCount v).toNat := by omega
    have hrun := State.countChunk_run_toNat hhead.le
    have hcount := s.countChunk_runCount v
    obtain ⟨t, htrun, htcount, hfeeds, hops⟩ := ih h.tail (by rw [hrun, hcount]; omega)
    refine ⟨t, by rw [htrun, hrun, List.length_cons]; omega, htcount.trans hcount, hfeeds, ?_⟩
    rw [vadChunkOps_cons, runOps_cons_of_next (h.exec_head_of_lt hhead), hops]
    rfl

/-- R187 (a), (c): the last of the chunks that bring the run to its length flips the latch. -/
theorem FeedsRun.exists_flipping_run (h : FeedsRun v chunks s) (hne : chunks ≠ [])
    (heq : (s.run v).toNat + chunks.length = (s.runCount v).toNat) :
    ∃ t, (t.run v).toNat = (s.run v).toNat + chunks.length ∧ t.latched = v ∧
      runOps (vadChunkOps chunks) s = some (t, List.replicate (chunks.length - 1) quiet ++
        [⟨.ok, packVad v (s.runCount v), .none, .vadStatus⟩]) := by
  obtain ⟨init, x, rfl⟩ := (List.eq_nil_or_concat' chunks).resolve_left hne
  rw [List.length_append, List.length_singleton] at heq ⊢
  obtain ⟨t, htrun, htcount, hfeeds, hinit⟩ := h.exists_quiet_run (by omega)
  have hlast : (t.run v).toNat + 1 = (t.runCount v).toNat := by rw [htrun, htcount]; omega
  refine ⟨t.completeRun v, ?run, rfl, ?ops⟩
  case run => exact (State.updateRuns_run_toNat hlast.le).trans (by omega)
  case ops =>
    rw [vadChunkOps_append, runOps_append, hinit, Option.bind_some, vadChunkOps_cons,
      runOps_cons_of_next (hfeeds.exec_head_of_eq hlast), ← htcount]
    rfl

/-- R187 for both sides of the latch. -/
theorem FeedsRun.hysteresis (h : FeedsRun v chunks s) (hne : chunks ≠ [])
    (hle : (s.run v).toNat + chunks.length ≤ (s.runCount v).toNat) :
    ∃ t, (t.run v).toNat = (s.run v).toNat + chunks.length ∧
      ((s.run v).toNat + chunks.length < (s.runCount v).toNat → t.latched = (!v) ∧
        runOps (vadChunkOps chunks) s = some (t, List.replicate chunks.length quiet)) ∧
      ((s.run v).toNat + chunks.length = (s.runCount v).toNat → t.latched = v ∧
        runOps (vadChunkOps chunks) s = some (t, List.replicate (chunks.length - 1) quiet ++
          [⟨.ok, packVad v (s.runCount v), .none, .vadStatus⟩])) := by
  obtain hlt | heq := hle.lt_or_eq
  · obtain ⟨t, hrun, -, hfeeds, hops⟩ :=
      FeedsRun.exists_quiet_run (rest := []) (chunks.append_nil.symm ▸ h) hlt
    exact ⟨t, hrun, fun _ => ⟨hfeeds.latched, hops⟩, fun heq => absurd heq hlt.ne⟩
  · obtain ⟨t, hrun, hflipped⟩ := h.exists_flipping_run hne heq
    exact ⟨t, hrun, fun hlt => absurd heq hlt.ne, fun _ => hflipped⟩

end

/-- Settles O46: the run with voice, on an unlatched VAD. -/
theorem vadLatchesOnRun : Obligations.VadLatchesOnRun :=
  fun _ _ hlatched hpos hchunk => FeedsRun.hysteresis (v := true) ⟨hlatched, hpos, hchunk⟩

/-- Settles O47: the run without voice, on a latched VAD. -/
theorem vadUnlatchesOnRun : Obligations.VadUnlatchesOnRun :=
  fun _ _ hlatched hpos hchunk => FeedsRun.hysteresis (v := false) ⟨hlatched, hpos, hchunk⟩

end Sys2Proof.Machine
end

section
/-! PROOFS. The ring operations (44_audio_ring R202 to R205): RING_PUSH, RING_PULL and BUF_COMPLETE are the
push loop, the pull loop and a pull into the buffer that was active, each from cursors inside the ring. -/

namespace Sys2Proof.Machine

/-! ## Command words -/

/-- A 16-bit value as a word is in `imm16`. -/
theorem zeroExtend_half_eq_toWord (v : Half) :
    v.zeroExtend 32 = Fields.toWord ⟨0, 0, 0, v.extractLsb' 8 8, v.extractLsb' 0 8⟩ := by
  refine BitVec.eq_of_getLsbD_eq fun i h => ?_
  rw [Fields.getLsbD_toWord]
  by_cases hlow : i < 8
  · simp [h, hlow]
  by_cases hhigh : i < 16
  · simp [h, hlow, hhigh, show i - 8 < 8 by omega, show 8 + (i - 8) = i by omega]
  · simp [hlow, hhigh, BitVec.getLsbD_of_ge v i (by omega)]

/-- The word of an operation whose one operand is `imm16` (R91). -/
theorem toWord_or_zeroExtend_half (op : BitVec 4) (v : Half) :
    Fields.toWord ⟨op, 0, 0, 0, 0⟩ ||| v.zeroExtend 32 =
      Fields.toWord ⟨op, 0, 0, v.extractLsb' 8 8, v.extractLsb' 0 8⟩ := by
  simp [zeroExtend_half_eq_toWord, Fields.toWord_or]

theorem decode_ringPush (d : Data) : decode ⟨0x80000000#32, d⟩ = .ok (.ringPush d) :=
  decode_of_fields (i := .ringPush d) ⟨8, 0, 0, 0, 0⟩ rfl (by decide)

theorem decode_ringPull (n : Half) (d : Data) :
    decode ⟨0x90000000#32 ||| n.zeroExtend 32, d⟩ = .ok (.ringPull n d) :=
  decode_of_fields (i := .ringPull n d) ⟨9, 0, 0, n.extractLsb' 8 8, n.extractLsb' 0 8⟩ rfl
    (toWord_or_zeroExtend_half 9 n)

theorem decode_bufComplete (d : Data) : decode ⟨0xA0000000#32, d⟩ = .ok (.bufComplete d) :=
  decode_of_fields (i := .bufComplete d) ⟨10, 0, 0, 0, 0⟩ rfl (by decide)

/-! ## RING_PUSH -/

theorem exec_ringPush {s : State} (h : s.RingInv) (xs : List Sample) :
    exec (.ringPush (.samples xs)) s = .next ((s.push xs).okWith 0 .none) :=
  if_neg (Nat.not_le_of_lt h.1)

/-- Settles O48: the operation is the push loop, whose law (`State.push_spec`) gives every part. -/
theorem ringPushOperation : Obligations.RingPushOperation := by
  refine ⟨decode_ringPush, illegalUnless_of_row "RING_PUSH", ?_⟩
  rintro s xs h hwf hwithin _ rfl
  obtain ⟨hnext, -, -, hstored, hkept⟩ := State.push_spec xs h hwf hwithin
  exact ⟨_, exec_ringPush h xs, congrArg (State.okWith · 0 .none) hnext, hstored, hkept⟩

/-! ## RING_PULL -/

/-- What a pull of `n` samples answers (R203): those held, in order from the read cursor on, then silence. -/
def State.pulled (s : State) (n : Nat) : List Sample :=
  (List.range n).map fun k => if k < s.occ then s.ring.read ((s.rd + k) % s.cfg.ringCap) else 0

/-- The state after a pull of `n` samples (R203): the read cursor is past those taken, and each silence is
counted. -/
def State.afterPull (s : State) (n : Nat) : State :=
  { s with
    rd := (s.rd + min n s.occ) % s.cfg.ringCap
    stats := s.stats.set .underrun (sat 32 (s.stats.underrun.toNat + (n - min n s.occ))) }

theorem State.pulled_length (s : State) (n : Nat) : (s.pulled n).length = n := by
  rw [State.pulled, List.length_map, List.length_range]

theorem State.pull_eq {s : State} (h : s.RingInv) (n : Nat) : s.pull n = (s.pulled n, s.afterPull n) :=
  Prod.ext (State.pull_spec n h).1 (State.pull_spec n h).2

theorem exec_ringPull {s : State} (h : s.RingInv) (n : Half) : exec (.ringPull n .none) s =
    .next ((s.afterPull n.toNat).okWith 0 (.samples (s.pulled n.toNat))) := by
  have hexec : exec (.ringPull n .none) s =
      .next ((s.pull n.toNat).2.okWith 0 (.samples (s.pull n.toNat).1)) :=
    if_neg (Nat.not_le_of_lt h.2)
  rw [hexec, State.pull_eq h]

/-- Settles O49: the operation is the pull loop. -/
theorem ringPullOperation : Obligations.RingPullOperation := by
  refine ⟨decode_ringPull, illegalUnless_of_row "RING_PULL", ?_⟩
  rintro s n h _ rfl
  exact exec_ringPull h n

/-! ## BUF_COMPLETE -/

theorem one_sub_ne_self (b : Fin 2) : 1 - b ≠ b := by revert b; decide

/-- The swap and the refill are one pull, written to the buffer that was active. -/
theorem State.swapRefill_eq {s : State} (h : s.RingInv) :
    s.swapRefill = ({ s with active := 1 - s.active }.afterPull s.cfg.outBufSamples).setObuf s.active
      (s.pulled s.cfg.outBufSamples) := by
  have hpull := State.pull_eq (s := { s with active := 1 - s.active }) h s.cfg.outBufSamples
  simp only [State.swapRefill, hpull, sub_sub_cancel]
  rfl

/-- What the swap and the refill write: besides the buffers, `active` and what a pull writes. -/
theorem State.swapRefill_eq_afterPull {s : State} (h : s.RingInv) : s.swapRefill =
    { s.afterPull s.cfg.outBufSamples with
      active := 1 - s.active, obuf0 := s.swapRefill.obuf0, obuf1 := s.swapRefill.obuf1 } := by
  rw [State.swapRefill_eq h]
  exact State.setObuf_frame _ _ _

theorem State.swapRefill_active {s : State} (h : s.RingInv) : s.swapRefill.active = 1 - s.active := by
  rw [State.swapRefill_eq_afterPull h]

/-- The refill writes the buffer that was active and no other. -/
theorem State.swapRefill_obuf {s : State} (h : s.RingInv) (b : Fin 2) : s.swapRefill.obuf b =
    if b = s.active then s.pulled s.cfg.outBufSamples else s.obuf b := by
  rw [State.swapRefill_eq h]
  exact State.obuf_setObuf _ _ _ _ (s.pulled_length _)

theorem exec_bufComplete {s : State} (h : s.RingInv) : exec (.bufComplete .none) s =
    .next (s.swapRefill.okWith 0 (.samples (s.obuf (1 - s.active)))) := by
  have hexec : exec (.bufComplete .none) s =
      .next (s.swapRefill.okWith 0 (.samples (s.swapRefill.obuf s.swapRefill.active))) :=
    if_neg (Nat.not_le_of_lt h.2)
  rw [hexec, State.swapRefill_active h, State.swapRefill_obuf h, if_neg (one_sub_ne_self _)]

/-- Settles O50: the operation is the swap and the refill. -/
theorem bufCompleteOperation : Obligations.BufCompleteOperation := by
  refine ⟨decode_bufComplete, illegalUnless_of_row "BUF_COMPLETE", ?_⟩
  rintro s h _ _ rfl rfl
  refine ⟨_, exec_bufComplete h, ?frame, ?answered, ?refilled⟩
  case frame => exact congrArg (State.okWith · 0 _) (State.swapRefill_eq_afterPull h)
  case answered => exact (State.swapRefill_obuf h _).trans (if_neg (one_sub_ne_self _))
  case refilled => exact (State.swapRefill_obuf h _).trans (if_pos rfl)

end Sys2Proof.Machine
end

section
/-! PROOFS. Runs over the ring (44_audio_ring R202, R203, R206): what a run keeps if each of its operations
does, the balance of samples given and taken, and the order in which they come out. -/

namespace Sys2Proof.Machine

/-! ## Runs -/

/-- A run that completes is its first operation and the run of the others from there. -/
theorem runOps_cons_eq_some {i : Instr} {is : List Instr} {s t : State} {rs : List Response}
    (h : runOps (i :: is) s = some (t, rs)) :
    ∃ u us, exec i s = .next u ∧ runOps is u = some (t, us) ∧ rs = u.resp.toList ++ us := by
  cases hexec : exec i s with
  | next u =>
    rw [runOps_cons_of_next hexec, Option.map_eq_some_iff] at h
    obtain ⟨⟨v, us⟩, hrun, heq⟩ := h
    cases heq
    exact ⟨u, us, rfl, hrun, rfl⟩
  | fault e => simp [runOps, hexec] at h
  | refused e => simp [runOps, hexec] at h

/-- A property that each operation of a run keeps is kept by the run. -/
theorem runOps_preserves {P : State → Prop} {is : List Instr}
    (hexec : ∀ i ∈ is, ∀ s t, P s → exec i s = .next t → P t) {s t : State} {rs : List Response}
    (hs : P s) (h : runOps is s = some (t, rs)) : P t := by
  induction is generalizing s rs with
  | nil =>
    cases h
    exact hs
  | cons i is ih =>
    rw [List.forall_mem_cons] at hexec
    obtain ⟨u, us, hhead, htail, -⟩ := runOps_cons_eq_some h
    exact ih hexec.2 (hexec.1 s u hs hhead) htail

/-- A run without STAT_CLEAR leaves each counter at least as high. -/
theorem runOps_stats_le {is : List Instr} (his : ∀ i ∈ is, i ≠ .statClear .none) {s t : State}
    {rs : List Response} (h : runOps is s = some (t, rs)) : s.stats.Le t.stats :=
  runOps_preserves (P := fun u => s.stats.Le u.stats)
    (fun i hi _ _ hle hexec => hle.trans (exec_stats_le (his i hi) hexec)) (.refl _) h

/-! ## The occupancy -/

/-- The write cursor moved on by `a` slots that were free. -/
theorem State.occ_of_wr_add {s t : State} (h : s.RingInv) {a : Nat} (hcfg : t.cfg = s.cfg)
    (hrd : t.rd = s.rd) (hwr : t.wr = (s.wr + a) % s.cfg.ringCap) (ha : s.occ + a < s.cfg.ringCap) :
    t.occ = s.occ + a := by
  have ht : t.RingInv := by
    rw [State.RingInv, hcfg, hrd, hwr]
    exact ⟨Nat.mod_lt _ (Nat.zero_lt_of_lt h.1), h.2⟩
  obtain ⟨hw, hr⟩ := h
  rw [State.occ_eq ⟨hw, hr⟩] at ha ⊢
  rw [State.occ_eq ht, hcfg, hrd, hwr, add_mod_cases hw (by omega)]
  split_ifs at ha ⊢ <;> omega

/-- The read cursor moved on by `c` of the slots that were held. -/
theorem State.occ_of_rd_add {s t : State} (h : s.RingInv) {c : Nat} (hcfg : t.cfg = s.cfg)
    (hwr : t.wr = s.wr) (hrd : t.rd = (s.rd + c) % s.cfg.ringCap) (hc : c ≤ s.occ) :
    t.occ + c = s.occ := by
  have hlt := State.occ_lt h
  have ht : t.RingInv := by
    rw [State.RingInv, hcfg, hrd, hwr]
    exact ⟨h.1, Nat.mod_lt _ (Nat.zero_lt_of_lt h.1)⟩
  obtain ⟨hw, hr⟩ := h
  rw [State.occ_eq ⟨hw, hr⟩] at hc hlt ⊢
  rw [State.occ_eq ht, hcfg, hrd, hwr, add_mod_cases hr (by omega)]
  split_ifs at hc hlt ⊢ <;> omega

theorem State.room_le (s : State) (n : Nat) : s.room n ≤ n := Nat.min_le_left _ _

theorem State.ringFits_of_inv {s : State} (h : s.Inv) : s.RingFits := by
  obtain ⟨-, -, hcursors, ⟨-, -, hring, -⟩, -⟩ := h
  exact ⟨hcursors, hring⟩

/-- The state after a push, by `State.push_spec`. -/
theorem State.RingFits.push_eq {s : State} (h : s.RingFits) (xs : List Sample) : s.push xs = { s with
    ring := (s.push xs).ring
    wr := (s.wr + s.room xs.length) % s.cfg.ringCap
    stats := s.stats.set .overflow
      (sat 32 (s.stats.overflow.toNat + (xs.length - s.room xs.length))) } := by
  obtain ⟨hcursors, hwf, hwithin⟩ := h
  exact (State.push_spec xs hcursors hwf hwithin).1

/-- A push raises the occupancy by the samples it stores. -/
theorem State.push_occ {s : State} (h : s.RingFits) (xs : List Sample) :
    (s.push xs).occ = s.occ + s.room xs.length := by
  have hlt := State.occ_lt h.1
  refine State.occ_of_wr_add h.1 ?_ ?_ ?_ (by rw [State.room]; omega) <;> rw [h.push_eq]

theorem State.push_overflow {s : State} (h : s.RingFits) (xs : List Sample) :
    (s.push xs).stats.overflow = sat 32 (s.stats.overflow.toNat + (xs.length - s.room xs.length)) := by
  rw [h.push_eq]
  rfl

theorem State.push_underrun (s : State) (xs : List Sample) :
    (s.push xs).stats.underrun = s.stats.underrun := by
  rw [State.push_frame]
  rfl

/-- A pull lowers the occupancy by the samples it takes. -/
theorem State.afterPull_occ {s : State} (h : s.RingInv) (n : Nat) :
    (s.afterPull n).occ + min n s.occ = s.occ :=
  State.occ_of_rd_add h rfl rfl rfl (Nat.min_le_right _ _)

/-! ## The balance of a run -/

/-- A counter that is not saturated has counted everything. -/
theorem sat_toNat_of_ne_max {n : Nat} (h : sat 32 n ≠ 0xFFFFFFFF#32) : (sat 32 n).toNat = n := by
  rw [Ne, ← BitVec.toNat_inj, sat_toNat] at h
  rw [sat_toNat]
  simp only [BitVec.toNat_ofNat] at h
  omega

/-- Neither of the ring's counters is saturated. -/
def Stats.RingUnsaturated (v : Stats) : Prop := v.overflow ≠ 0xFFFFFFFF#32 ∧ v.underrun ≠ 0xFFFFFFFF#32

theorem Stats.RingUnsaturated.of_le {v w : Stats} (h : w.RingUnsaturated) (hle : v.Le w) :
    v.RingUnsaturated := by
  have ne_of_le {x y : Word} (hxy : x ≤ y) (hy : y ≠ 0xFFFFFFFF#32) : x ≠ 0xFFFFFFFF#32 := by
    bv_omega
  exact ⟨ne_of_le (hle .overflow) h.1, ne_of_le (hle .underrun) h.2⟩

/-- R206 from `s` to `t`: of `T` samples given and `U` slots asked for, some are accepted and some taken, as
the occupancy shows, and the rest are counted. -/
def RingBalance (s t : State) (T U : Nat) : Prop :=
  ∃ A C : Nat, t.occ + C = s.occ + A ∧
    t.stats.overflow.toNat + A = s.stats.overflow.toNat + T ∧
    t.stats.underrun.toNat + C = s.stats.underrun.toNat + U

theorem RingBalance.of_untouched {s t : State} (hocc : t.occ = s.occ)
    (hover : t.stats.overflow = s.stats.overflow) (hunder : t.stats.underrun = s.stats.underrun) :
    RingBalance s t 0 0 :=
  ⟨0, 0, by rw [hocc], by rw [hover], by rw [hunder]⟩

theorem RingBalance.trans {s t u : State} {T T' U U' : Nat} (hst : RingBalance s t T U)
    (htu : RingBalance t u T' U') : RingBalance s u (T + T') (U + U') := by
  obtain ⟨A, C, hocc, hover, hunder⟩ := hst
  obtain ⟨A', C', hocc', hover', hunder'⟩ := htu
  exact ⟨A + A', C + C', by omega, by omega, by omega⟩

theorem State.push_ringBalance {s : State} (h : s.RingFits) (xs : List Sample)
    (hsat : (s.push xs).stats.RingUnsaturated) : RingBalance s (s.push xs) xs.length 0 := by
  have hroom := s.room_le xs.length
  refine ⟨s.room xs.length, 0, State.push_occ h xs, ?_, by rw [State.push_underrun]⟩
  have hover := hsat.1
  rw [State.push_overflow h] at hover ⊢
  rw [sat_toNat_of_ne_max hover]
  omega

theorem State.afterPull_ringBalance {s : State} (h : s.RingInv) (n : Nat)
    (hsat : (s.afterPull n).stats.RingUnsaturated) : RingBalance s (s.afterPull n) 0 n := by
  have hunder : (s.afterPull n).stats.underrun.toNat = s.stats.underrun.toNat + (n - min n s.occ) :=
    sat_toNat_of_ne_max hsat.2
  exact ⟨0, min n s.occ, State.afterPull_occ h n, rfl, by omega⟩

/-- BUF_COMPLETE is to the ring what a pull of a buffer's samples is. -/
theorem State.swapRefill_ringBalance {s : State} (h : s.RingInv)
    (hsat : s.swapRefill.stats.RingUnsaturated) :
    RingBalance s s.swapRefill 0 s.cfg.outBufSamples := by
  rw [State.swapRefill_eq_afterPull h] at hsat ⊢
  exact State.afterPull_ringBalance h _ hsat

/-- An ill-formed operation gives nothing to RING_PUSH's loop and asks `pull` for nothing. -/
theorem attempts_of_illformed {i : Instr} (h : ¬ i.WellFormed) (c : Config) :
    pushAttempts i = 0 ∧ pullAttempts c i = 0 := by
  cases i with
  | ringPush d =>
    cases d with
    | samples => exact absurd rfl h
    | none | bytes => exact ⟨rfl, rfl⟩
  | ringPull n d | bufComplete d =>
    cases d with
    | none => exact absurd rfl h
    | bytes | samples => exact ⟨rfl, rfl⟩
  | _ => exact ⟨rfl, rfl⟩

theorem State.occ_congr {s t : State} (hcfg : t.cfg = s.cfg) (hwr : t.wr = s.wr) (hrd : t.rd = s.rd) :
    t.occ = s.occ := by
  rw [State.occ, State.occ, hcfg, hwr, hrd]

/-- Every operation but STAT_CLEAR balances: the three of the ring by their effects, the others because they
leave the cursors and the two counters alone (O11). -/
theorem exec_ringBalance {i : Instr} {s t : State} (hs : s.RingFits) (hi : i ≠ .statClear .none)
    (h : exec i s = .next t) (hsat : t.stats.RingUnsaturated) :
    RingBalance s t (pushAttempts i) (pullAttempts s.cfg i) := by
  by_cases hwf : i.WellFormed
  case neg =>
    obtain ⟨hpush, hpull⟩ := attempts_of_illformed hwf s.cfg
    rw [exec_illformed hwf] at h
    cases h
    rw [hpush, hpull]
    exact .of_untouched rfl rfl rfl
  obtain ⟨-, -, -, -, -, hwrite, hread, -, -, -, hover, hunder⟩ := stateWrittenOnlyBy i s t h
  cases i with
  | ringPush d =>
    obtain ⟨xs, rfl⟩ := data_eq_samples_of_kind hwf
    rw [exec_ringPush hs.1] at h
    cases h
    exact State.push_ringBalance hs xs hsat
  | ringPull n d =>
    obtain rfl := data_eq_none_of_kind hwf
    rw [exec_ringPull hs.1] at h
    cases h
    exact State.afterPull_ringBalance hs.1 n.toNat hsat
  | bufComplete d =>
    obtain rfl := data_eq_none_of_kind hwf
    rw [exec_bufComplete hs.1] at h
    cases h
    exact State.swapRefill_ringBalance hs.1 hsat
  | statClear d =>
    obtain rfl := data_eq_none_of_kind hwf
    exact absurd rfl hi
  | _ =>
    exact .of_untouched (State.occ_congr (exec_cfg h) (hwrite nofun).2 (hread nofun nofun))
      (hover nofun nofun) (hunder nofun nofun nofun)

/-- A run without STAT_CLEAR balances; a counter that is not saturated after it was not before. -/
theorem runOps_ringBalance {is : List Instr} (his : ∀ i ∈ is, i ≠ .statClear .none) {s t : State}
    {rs : List Response} (hs : s.RingFits) (h : runOps is s = some (t, rs))
    (hsat : t.stats.RingUnsaturated) :
    RingBalance s t (is.map pushAttempts).sum (is.map (pullAttempts s.cfg)).sum := by
  induction is generalizing s rs with
  | nil =>
    cases h
    exact .of_untouched rfl rfl rfl
  | cons i is ih =>
    obtain ⟨hi, his⟩ := List.forall_mem_cons.mp his
    obtain ⟨u, us, hhead, htail, -⟩ := runOps_cons_eq_some h
    have hone := exec_ringBalance hs hi hhead (hsat.of_le (runOps_stats_le his htail))
    have hrest := ih his (exec_ringFits hs hhead) htail
    rw [exec_cfg hhead] at hrest
    simpa only [List.map_cons, List.sum_cons] using hone.trans hrest

/-- Settles O51: the run balances, and in the ring at its end at most `RING_CAP - 1` samples are held. -/
theorem ringConservation : Obligations.RingConservation := by
  intro is s t rs hs his h hover hunder
  have hfits := State.ringFits_of_inv hs
  obtain ⟨A, C, hocc, hT, hU⟩ := runOps_ringBalance his hfits h ⟨hover, hunder⟩
  obtain ⟨hfits', hcfg⟩ : t.RingFits ∧ t.cfg = s.cfg :=
    runOps_preserves (P := fun u => u.RingFits ∧ u.cfg = s.cfg)
      (fun _ _ _ _ ⟨hu, hcfg⟩ hexec => ⟨exec_ringFits hu hexec, (exec_cfg hexec).trans hcfg⟩)
      ⟨hfits, rfl⟩ h
  have hlt : t.occ < s.cfg.ringCap := hcfg ▸ State.occ_lt hfits'.1
  have heq : s.occ + A - C = t.occ := by omega
  exact ⟨A, C, hocc, by omega, by rw [heq, Nat.mod_eq_of_lt hlt], hT, hU⟩

/-! ## First in, first out -/

/-- A counter that has counted nothing is as it was. -/
theorem Stats.set_sat_get (v : Stats) (k : Counter) : v.set k (sat 32 (v.get k).toNat) = v := by
  rw [sat_self, Stats.set_get]

/-- A push of samples that there is room for counts nothing. -/
theorem State.push_stats {s : State} (h : s.RingFits) {xs : List Sample}
    (hroom : s.room xs.length = xs.length) : (s.push xs).stats = s.stats := by
  rw [h.push_eq, hroom, Nat.sub_self]
  exact s.stats.set_sat_get .overflow

/-- A pull of samples that are held counts nothing. -/
theorem State.afterPull_stats {s : State} {n : Nat} (hn : n ≤ s.occ) :
    (s.afterPull n).stats = s.stats := by
  rw [State.afterPull, Nat.min_eq_left hn, Nat.sub_self]
  exact s.stats.set_sat_get .underrun

/-- After a push into an empty ring the samples stand where the read cursor is, in order. -/
theorem State.pulled_push {s : State} (h : s.RingFits) (hempty : s.occ = 0) {xs : List Sample}
    (hroom : s.room xs.length = xs.length) : (s.push xs).pulled xs.length = xs := by
  have hocc := State.push_occ h xs
  obtain ⟨hcursors, hwf, hwithin⟩ := h
  obtain ⟨-, -, -, hstored, -⟩ := State.push_spec xs hcursors hwf hwithin
  have hcursor : s.rd = s.wr := beq_iff_eq.mp ((State.ringEmpty_iff hcursors).mpr hempty)
  have hrd : (s.push xs).rd = s.wr := by rw [State.push_frame, hcursor]
  have hcfg : (s.push xs).cfg = s.cfg := by rw [State.push_frame]
  rw [hempty, Nat.zero_add, hroom] at hocc
  refine List.ext_getElem (State.pulled_length _ _) fun k hk hkx => ?_
  have hread := hstored k (hroom.symm ▸ hkx)
  simp only [State.pulled, List.getElem_map, List.getElem_range, hocc, if_pos hkx, hrd, hcfg]
  rw [hread, List.getD_eq_getElem _ _ hkx]

/-- Settles O52: an empty ring has room for all the samples, and the pull takes them all. -/
theorem ringIsFifo : Obligations.RingIsFifo := by
  intro s xs n hs hempty hn hlt
  have hfits := State.ringFits_of_inv hs
  have hroom : s.room xs.length = xs.length := by
    rw [State.room, hempty]
    omega
  have hocc : (s.push xs).occ = n.toNat := by rw [State.push_occ hfits, hempty, hroom, hn, Nat.zero_add]
  have hpushed : ((s.push xs).okWith 0 .none).RingInv := (hfits.push xs).1
  have hpulled : ((s.push xs).okWith 0 .none).pulled n.toNat = xs :=
    hn ▸ State.pulled_push hfits hempty hroom
  refine ⟨(((s.push xs).okWith 0 .none).afterPull n.toNat).okWith 0 (.samples xs), ?run, ?occ, ?stats⟩
  case run =>
    rw [runOps_cons_of_next (exec_ringPush hfits.1 xs), runOps_cons_of_next (exec_ringPull hpushed n),
      hpulled]
    rfl
  case occ =>
    have hleft := State.afterPull_occ hpushed n.toNat
    have hheld : ((s.push xs).okWith 0 .none).occ = n.toNat := hocc
    rw [hheld, Nat.min_self, Nat.add_eq_right] at hleft
    exact hleft
  case stats =>
    exact (State.afterPull_stats (s := (s.push xs).okWith 0 .none) hocc.ge).trans
      (State.push_stats hfits hroom)

end Sys2Proof.Machine
end

section
/-! PROOFS. The way of a sample through the output buffers (44_audio_ring R207, 70_reset_and_hazards R286): from
the BUF_COMPLETE that pulls it to the next one, which answers it. -/

namespace Sys2Proof.Machine

/-- No operation but BUF_COMPLETE touches the buffers (O11). -/
theorem exec_obuf {i : Instr} (hi : ∀ d, i ≠ .bufComplete d) {s t : State} (h : exec i s = .next t) :
    t.active = s.active ∧ ∀ b, t.obuf b = s.obuf b := by
  obtain ⟨-, -, -, -, -, -, -, hobuf, -⟩ := stateWrittenOnlyBy i s t h
  obtain ⟨h0, h1, hactive⟩ := hobuf hi
  refine ⟨hactive, fun b => ?_⟩
  rw [State.obuf, State.obuf, h0, h1, exec_cfg h]

/-- A run without BUF_COMPLETE keeps the ring's invariant and the buffers. -/
theorem runOps_obuf {is : List Instr} (his : ∀ i ∈ is, ∀ d, i ≠ .bufComplete d) {s t : State}
    {rs : List Response} (hs : s.RingFits) (h : runOps is s = some (t, rs)) :
    t.RingFits ∧ t.active = s.active ∧ ∀ b, t.obuf b = s.obuf b := by
  refine runOps_preserves (P := fun u => u.RingFits ∧ u.active = s.active ∧ ∀ b, u.obuf b = s.obuf b)
    (fun i hi u v ⟨hu, hactive, hobuf⟩ hexec => ?_) ⟨hs, rfl, fun _ => rfl⟩ h
  obtain ⟨hactive', hobuf'⟩ := exec_obuf (his i hi) hexec
  exact ⟨exec_ringFits hu hexec, hactive'.trans hactive, fun b => (hobuf' b).trans (hobuf b)⟩

/-- A run that completes is all but its last operation and that one from there, whose response is the last. -/
theorem runOps_concat_eq_some {is : List Instr} {i : Instr} {s t : State} {rs : List Response}
    (h : runOps (is ++ [i]) s = some (t, rs)) :
    ∃ u us, runOps is s = some (u, us) ∧ exec i u = .next t ∧ rs = us ++ t.resp.toList := by
  rw [runOps_append, Option.bind_eq_some_iff] at h
  obtain ⟨⟨u, us⟩, hinit, h⟩ := h
  rw [Option.map_eq_some_iff] at h
  obtain ⟨⟨v, vs⟩, hlast, heq⟩ := h
  cases heq
  obtain ⟨w, ws, hexec, hnil, rfl⟩ := runOps_cons_eq_some hlast
  cases hnil
  exact ⟨u, us, hinit, hexec, by rw [List.append_nil]⟩

/-- Settles O53: the first BUF_COMPLETE refills the buffer it makes idle, the operations between keep it, and
the last one makes it active and answers it. -/
theorem bufferPathTakesTwo : Obligations.BufferPathTakesTwo := by
  refine ⟨fun i s t hi h => exec_obuf hi h, fun s t is rs hs his h => ?_⟩
  have hfits := State.ringFits_of_inv hs
  obtain ⟨u, us, hinit, hlast, rfl⟩ := runOps_concat_eq_some h
  obtain ⟨v, vs, hfirst, hbetween, -⟩ := runOps_cons_eq_some hinit
  have hv : v.RingFits := exec_ringFits hfits hfirst
  obtain ⟨hu, hactive, hobuf⟩ := runOps_obuf his hv hbetween
  rw [exec_bufComplete hfits.1] at hfirst
  cases hfirst
  have hidle : u.active = 1 - s.active := hactive.trans (State.swapRefill_active hfits.1)
  have hrefilled : u.obuf (1 - u.active) = s.pulled s.cfg.outBufSamples := by
    rw [hobuf, hidle, sub_sub_cancel]
    exact (State.swapRefill_obuf hfits.1 _).trans (if_pos rfl)
  rw [exec_bufComplete hu.1, hrefilled] at hlast
  cases hlast
  exact List.getLast?_concat

end Sys2Proof.Machine
end

section
/-! PROOFS. The control operations (45_control R230 to R235, 10_state R37, R39, R40): CFG_READ, CFG_WRITE and
STAT_READ answer what the register and counter maps hold at their index, and BAD_REG where those hold nothing;
STAT_CLEAR and SOFT_RESET each are one update of the state. -/

namespace Sys2Proof.Machine

/-! ## Command words -/

/-- An index shifted by 24 is in the field `idx`. -/
theorem zeroExtend_idx_shiftLeft_eq_toWord (x : BitVec 4) :
    x.zeroExtend 32 <<< 24 = Fields.toWord ⟨0, x, 0, 0, 0⟩ := by
  refine BitVec.eq_of_getLsbD_eq fun i h => ?_
  rw [Fields.getLsbD_toWord, BitVec.getLsbD_shiftLeft]
  by_cases hlow : i < 24
  · simp [hlow]
  by_cases hidx : i < 28
  · simp [h, hlow, hidx, show ¬i < 8 by omega, show ¬i < 16 by omega, show i - 24 < 32 by omega]
  · simp [h, hlow, hidx, show ¬i < 8 by omega, show ¬i < 16 by omega,
      BitVec.getLsbD_of_ge x (i - 24) (by omega)]

/-- The word of an operation whose one operand is `idx` (R91). -/
theorem toWord_or_idx (op x : BitVec 4) :
    Fields.toWord ⟨op, 0, 0, 0, 0⟩ ||| x.zeroExtend 32 <<< 24 = Fields.toWord ⟨op, x, 0, 0, 0⟩ := by
  simp [zeroExtend_idx_shiftLeft_eq_toWord, Fields.toWord_or]

/-- The word of CFG_WRITE has its operands in `idx` and in `imm16` (R91). -/
theorem cfgWrite_word (x : BitVec 4) (v : Half) :
    0xC0000000#32 ||| x.zeroExtend 32 <<< 24 ||| v.zeroExtend 32 =
      Fields.toWord ⟨12, x, 0, v.extractLsb' 8 8, v.extractLsb' 0 8⟩ := by
  have hop : 0xC0000000#32 = Fields.toWord ⟨12, 0, 0, 0, 0⟩ := by decide
  rw [hop, toWord_or_idx, zeroExtend_half_eq_toWord, Fields.toWord_or]
  simp

theorem decode_cfgRead (x : BitVec 4) (d : Data) :
    decode ⟨0xB0000000#32 ||| x.zeroExtend 32 <<< 24, d⟩ = .ok (.cfgRead x d) :=
  decode_of_fields (i := .cfgRead x d) ⟨11, x, 0, 0, 0⟩ rfl (toWord_or_idx 11 x)

theorem decode_cfgWrite (x : BitVec 4) (v : Half) (d : Data) :
    decode ⟨0xC0000000#32 ||| x.zeroExtend 32 <<< 24 ||| v.zeroExtend 32, d⟩ = .ok (.cfgWrite x v d) :=
  decode_of_fields (i := .cfgWrite x v d) ⟨12, x, 0, v.extractLsb' 8 8, v.extractLsb' 0 8⟩ rfl
    (cfgWrite_word x v)

theorem decode_statRead (x : BitVec 4) (d : Data) :
    decode ⟨0xD0000000#32 ||| x.zeroExtend 32 <<< 24, d⟩ = .ok (.statRead x d) :=
  decode_of_fields (i := .statRead x d) ⟨13, x, 0, 0, 0⟩ rfl (toWord_or_idx 13 x)

theorem decode_statClear (d : Data) : decode ⟨0xE0000000#32, d⟩ = .ok (.statClear d) :=
  decode_of_fields (i := .statClear d) ⟨14, 0, 0, 0, 0⟩ rfl (by decide)

theorem decode_softReset (d : Data) : decode ⟨0xF0000000#32, d⟩ = .ok (.softReset d) :=
  decode_of_fields (i := .softReset d) ⟨15, 0, 0, 0, 0⟩ rfl (by decide)

/-! ## CFG_READ -/

theorem exec_cfgRead_of_cfgReg {s : State} {x : BitVec 4} {v : Word} (h : s.cfgReg x = some v) :
    exec (.cfgRead x .none) s = .next (s.okWith v .none) := by
  simp only [exec, execCfgRead, withNone_none, h, State.respond_eq]

theorem exec_cfgRead_of_cfgReg_none {s : State} {x : BitVec 4} (h : s.cfgReg x = none) :
    exec (.cfgRead x .none) s = .next (s.failedWith .badReg) := by
  simp only [exec, execCfgRead, withNone_none, h, State.fail_eq]

/-- Indices 4 to 7 are reserved (R39). -/
theorem State.cfgReg_reserved (s : State) : ∀ x ∈ [4#4, 5#4, 6#4, 7#4], s.cfgReg x = none := by
  simp only [List.forall_mem_cons]
  exact ⟨rfl, rfl, rfl, rfl, nofun⟩

theorem ofNat_active (b : Fin 2) : BitVec.ofNat 32 b.val = if b = 0 then 0 else 1 := by
  revert b
  decide

/-- A position in the ring fits in a response's value, since RING_CAP is at most 65536 (R7). -/
theorem toNat_ofNat_of_lt_ringCap {c : Config} (hc : c.Legal) {n : Nat} (hn : n < c.ringCap) :
    (BitVec.ofNat 32 n).toNat = n := by
  obtain ⟨⟨-, -, hcap⟩, -⟩ := hc
  rw [BitVec.toNat_ofNat]
  exact Nat.mod_eq_of_lt (by omega)

/-- The occupancy with the remainder taken of a number that is not negative (R201). -/
theorem State.occ_eq_mod {s : State} (h : s.RingInv) :
    s.occ = (s.wr + s.cfg.ringCap - s.rd) % s.cfg.ringCap := by
  rw [State.occ_eq h]
  obtain ⟨hwr, hrd⟩ := h
  split
  · rw [Nat.sub_add_comm ‹_›, Nat.add_mod_right, Nat.mod_eq_of_lt (by omega)]
  · exact (Nat.mod_eq_of_lt (by omega)).symm

/-- Settles O54: each index but the four reserved ones has its register, and the ring's cursors and occupancy
fit in the value. -/
theorem cfgReadOperation : Obligations.CfgReadOperation := by
  refine ⟨decode_cfgRead, illegalUnless_of_row "CFG_READ", fun s => ?_⟩
  refine ⟨?reserved, exec_cfgRead_of_cfgReg rfl, exec_cfgRead_of_cfgReg rfl, exec_cfgRead_of_cfgReg rfl,
    exec_cfgRead_of_cfgReg rfl, exec_cfgRead_of_cfgReg rfl, exec_cfgRead_of_cfgReg rfl,
    exec_cfgRead_of_cfgReg rfl, exec_cfgRead_of_cfgReg rfl, ?occupancy, ?active, ?cursors⟩
  case reserved => exact fun x hx => exec_cfgRead_of_cfgReg_none (s.cfgReg_reserved x hx)
  case occupancy =>
    intro hlegal hring
    have hfits := toNat_ofNat_of_lt_ringCap hlegal (State.occ_lt hring)
    exact ⟨_, hfits.trans (State.occ_eq_mod hring), exec_cfgRead_of_cfgReg rfl⟩
  case active => exact exec_cfgRead_of_cfgReg (congrArg some (ofNat_active s.active))
  case cursors =>
    rintro hlegal ⟨hwr, hrd⟩
    exact ⟨_, _, toNat_ofNat_of_lt_ringCap hlegal hwr, toNat_ofNat_of_lt_ringCap hlegal hrd,
      exec_cfgRead_of_cfgReg rfl, exec_cfgRead_of_cfgReg rfl⟩

/-! ## CFG_WRITE -/

theorem exec_cfgWrite_of_setCfgReg_none {s : State} {x : BitVec 4} {v : Half}
    (h : s.setCfgReg x v = none) : exec (.cfgWrite x v .none) s = .next (s.failedWith .badReg) := by
  simp only [exec, execCfgWrite, withNone_none, h, State.fail_eq]

/-- Only the registers 0 to 3 can be written (R232). -/
theorem State.setCfgReg_eq_none {x : BitVec 4} (hx : 3#4 < x) (s : State) (v : Half) :
    s.setCfgReg x v = none := by
  cases h : s.setCfgReg x v with
  | none => rfl
  | some t =>
    obtain ⟨rfl, -⟩ | ⟨rfl, -⟩ | ⟨rfl, -⟩ | ⟨rfl, -⟩ := State.setCfgReg_cases h <;>
      exact absurd hx (by decide)

/-- Settles O55: the four writable registers by their equations, the other indices by `setCfgReg_eq_none`. -/
theorem cfgWriteOperation : Obligations.CfgWriteOperation := by
  refine ⟨decode_cfgWrite, illegalUnless_of_row "CFG_WRITE", fun s v => ?_⟩
  exact ⟨exec_cfgWrite_of_setCfgReg rfl, exec_cfgWrite_of_setCfgReg rfl, exec_cfgWrite_of_setCfgReg rfl,
    exec_cfgWrite_of_setCfgReg rfl,
    fun x hx => exec_cfgWrite_of_setCfgReg_none (State.setCfgReg_eq_none hx s v)⟩

/-! ## STAT_READ -/

theorem exec_statRead_of_statAt {x : BitVec 4} {k : Counter} (h : statAt x = some k) (s : State) :
    exec (.statRead x .none) s = .next (s.okWith (s.stats.get k) .none) := by
  simp only [exec, execStatRead, withNone_none, h, State.respond_eq]

theorem exec_statRead_of_statAt_none {x : BitVec 4} (h : statAt x = none) (s : State) :
    exec (.statRead x .none) s = .next (s.failedWith .badReg) := by
  simp only [exec, execStatRead, withNone_none, h, State.fail_eq]

/-- Indices 7 to 15 have no counter (R40). -/
theorem statAt_eq_none : ∀ x : BitVec 4, 6#4 < x → statAt x = none := by decide

/-- Settles O56: the counters stand at the indices 0 to 6 in the order of R37. -/
theorem statReadOperation : Obligations.StatReadOperation := by
  refine ⟨decode_statRead, illegalUnless_of_row "STAT_READ", fun s => ?_⟩
  exact ⟨exec_statRead_of_statAt (k := .bytesRx) rfl s, exec_statRead_of_statAt (k := .framesOk) rfl s,
    exec_statRead_of_statAt (k := .framesBadCrc) rfl s, exec_statRead_of_statAt (k := .framingErr) rfl s,
    exec_statRead_of_statAt (k := .framesSent) rfl s, exec_statRead_of_statAt (k := .overflow) rfl s,
    exec_statRead_of_statAt (k := .underrun) rfl s,
    fun x hx => exec_statRead_of_statAt_none (statAt_eq_none x hx) s⟩

/-! ## STAT_CLEAR and SOFT_RESET -/

theorem exec_statClear (s : State) :
    exec (.statClear .none) s = .next ({ s with stats := ⟨0, 0, 0, 0, 0, 0, 0⟩ }.okWith 0 .none) := rfl

/-- Settles O57: the counters are replaced by seven zeros. -/
theorem statClearOperation : Obligations.StatClearOperation :=
  ⟨decode_statClear, illegalUnless_of_row "STAT_CLEAR",
    fun s => ⟨_, exec_statClear s, Stats.get_zero, rfl⟩⟩

theorem exec_softReset (s : State) : exec (.softReset .none) s = .next (s.softReset.okWith 0 .none) := rfl

/-- What SOFT_RESET writes depends on the parameters alone, which it keeps. -/
theorem State.softReset_okWith_softReset (s : State) (v : Word) (d : Data) :
    (s.softReset.okWith v d).softReset = s.softReset.okWith v d := rfl

/-- Settles O58: the next state is the reset one with a quiet response, and resetting it again keeps it. -/
theorem softResetOperation : Obligations.SoftResetOperation := by
  refine ⟨decode_softReset, illegalUnless_of_row "SOFT_RESET", fun s => ?_⟩
  refine ⟨_, exec_softReset s, rfl, ?again⟩
  case again =>
    rw [exec_softReset, State.softReset_okWith_softReset]
    rfl

end Sys2Proof.Machine
end

section
/-! PROOFS. How an operation can end (60_exceptions R260 to R268): it completes with status OK, fails for one
of the causes of the status table, or, outside the states of the spec, stops at an array bound; and the events
a response can carry. -/

namespace Sys2Proof.Machine

/-! ## The causes of failure -/

/-- The causes of the status table (R260): the status with which an operation fails in the state `s`. -/
inductive FailsWith (s : State) : Instr → Status → Prop where
  | illformed (i : Instr) (hkind : ¬ i.WellFormed) : FailsWith s i .illegalCmd
  | encodeOversize (ty sq : Byte) (p : List Byte) (hbig : maxPayload < p.length) :
    FailsWith s (.encodeFrame ty sq (.bytes p)) .payloadTooLarge
  | decodeRejected (F : List Byte) (e : Status) (hframe : decodeFrameBytes s.cfg F = .error e) :
    FailsWith s (.decodeFrame (.bytes F)) e
  | vadBadChunk (xs : List Sample) (hchunk : s.chunkSamples = 0 ∨ xs.length ≠ s.chunkSamples.toNat) :
    FailsWith s (.vadChunk (.samples xs)) .badChunk
  | cfgReadBadReg (x : BitVec 4) (hreg : s.cfgReg x = none) : FailsWith s (.cfgRead x .none) .badReg
  | cfgWriteBadReg (x : BitVec 4) (v : Half) (hreg : s.setCfgReg x v = none) :
    FailsWith s (.cfgWrite x v .none) .badReg
  | statReadBadReg (x : BitVec 4) (hstat : statAt x = none) : FailsWith s (.statRead x .none) .badReg

/-- The statuses of the checks of `decode_frame` (41_frame_codec R133). -/
theorem decodeFrameBytes_error_mem {c : Config} {F : List Byte} {e : Status}
    (h : decodeFrameBytes c F = .error e) :
    e ∈ [Status.truncated, .badSof, .payloadTooLarge, .lengthMismatch, .crcMismatch] := by
  simp only [decodeFrameBytes] at h
  split_ifs at h <;> cases h <;> decide

/-! ## The end of an operation -/

/-- How an operation can end in the state `s`. The last way is the model's own (log entry 6): no state that
keeps the invariants has it. -/
inductive ExecEnding (s : State) (i : Instr) : Result → Prop where
  | completed (t : State) (r : Response) (hresp : t.resp = some r) (hok : r.status = .ok) :
    ExecEnding s i (.next t)
  | failed (e : Status) (hcause : FailsWith s i e) : ExecEnding s i (.next (s.failedWith e))
  | stopped (f : Fault) (hbroken : s.ParserInv → ¬ s.RingInv) : ExecEnding s i (.fault f)

theorem ExecEnding.okWith (s u : State) (i : Instr) (v : Word) (d : Data) :
    ExecEnding s i (.next (u.okWith v d)) := .completed _ _ rfl rfl

/-- The guard of the ring operations on one of the ring's cursors: it stops the operation only where the
cursor is outside the ring. -/
theorem ExecEnding.of_cursor_guard {s : State} {cursor : Nat} (hcursor : s.RingInv → cursor < s.cfg.ringCap)
    (i : Instr) (f : Fault) (u : State) (v : Word) (d : Data) :
    ExecEnding s i (if s.cfg.ringCap ≤ cursor then .fault f else .next (u.okWith v d)) := by
  split
  case isTrue hout => exact .stopped f fun _ hring => absurd (hcursor hring) hout.not_gt
  case isFalse => exact .okWith s u i v d

theorem exec_rxByte_ending (b : Byte) (s : State) :
    ExecEnding s (.rxByte b .none) (exec (.rxByte b .none) s) := by
  cases hstep : rxStep b s with
  | ok p =>
    rw [(rxStep_cases (t := p.1) (f := p.2) hstep).exec_eq]
    exact .completed _ _ rfl (rxResponse_status p.2)
  | error e =>
    have hexec : exec (.rxByte b .none) s = .fault e := by
      simp only [exec, execRxByte, withNone_none, hstep]
    rw [hexec]
    exact .stopped e fun hparser _ => exec_rxByte_ne_fault hparser b .none e hexec

theorem exec_vadChunk_ending (xs : List Sample) (s : State) :
    ExecEnding s (.vadChunk (.samples xs)) (exec (.vadChunk (.samples xs)) s) := by
  by_cases hchunk : s.chunkSamples = 0 ∨ xs.length ≠ s.chunkSamples.toNat
  · rw [vadChunkLengthCheck s xs hchunk]
    exact .failed _ (.vadBadChunk xs hchunk)
  · obtain ⟨hpos, hlen⟩ := not_or.mp hchunk
    rw [exec_vadChunk_of_length hpos (not_not.mp hlen)]
    exact .completed _ _ rfl (vadResponse_status _)

theorem exec_ending_of_wellFormed {i : Instr} (hwf : i.WellFormed) (s : State) :
    ExecEnding s i (exec i s) := by
  cases i with
  | crcInit d | crcByte b d | crcRead d | statClear d | softReset d =>
    obtain rfl := data_eq_none_of_kind hwf
    exact .okWith ..
  | encodeFrame ty sq d =>
    obtain ⟨p, rfl⟩ := data_eq_bytes_of_kind hwf
    by_cases hfit : p.length ≤ maxPayload
    · rw [exec_encodeFrame_of_fits ty sq s hfit]
      exact .okWith ..
    · rw [exec_encodeFrame_of_oversize ty sq s (Nat.lt_of_not_le hfit)]
      exact .failed _ (.encodeOversize ty sq p (Nat.lt_of_not_le hfit))
  | decodeFrame d =>
    obtain ⟨F, rfl⟩ := data_eq_bytes_of_kind hwf
    cases hframe : decodeFrameBytes s.cfg F with
    | ok f =>
      rw [exec_decodeFrame_of_ok hframe]
      exact .okWith ..
    | error e =>
      rw [exec_decodeFrame_of_error hframe]
      exact .failed e (.decodeRejected F e hframe)
  | rxByte b d =>
    obtain rfl := data_eq_none_of_kind hwf
    exact exec_rxByte_ending b s
  | vadChunk d =>
    obtain ⟨xs, rfl⟩ := data_eq_samples_of_kind hwf
    exact exec_vadChunk_ending xs s
  | ringPush d =>
    obtain ⟨xs, rfl⟩ := data_eq_samples_of_kind hwf
    exact .of_cursor_guard And.left ..
  | ringPull n d | bufComplete d =>
    obtain rfl := data_eq_none_of_kind hwf
    exact .of_cursor_guard And.right ..
  | cfgRead x d =>
    obtain rfl := data_eq_none_of_kind hwf
    cases hreg : s.cfgReg x with
    | some v =>
      rw [exec_cfgRead_of_cfgReg hreg]
      exact .okWith ..
    | none =>
      rw [exec_cfgRead_of_cfgReg_none hreg]
      exact .failed _ (.cfgReadBadReg x hreg)
  | cfgWrite x v d =>
    obtain rfl := data_eq_none_of_kind hwf
    cases hreg : s.setCfgReg x v with
    | some u =>
      rw [exec_cfgWrite_of_setCfgReg hreg]
      exact .okWith ..
    | none =>
      rw [exec_cfgWrite_of_setCfgReg_none hreg]
      exact .failed _ (.cfgWriteBadReg x v hreg)
  | statRead x d =>
    obtain rfl := data_eq_none_of_kind hwf
    cases hstat : statAt x with
    | some k =>
      rw [exec_statRead_of_statAt hstat]
      exact .okWith ..
    | none =>
      rw [exec_statRead_of_statAt_none hstat]
      exact .failed _ (.statReadBadReg x hstat)

/-- Whatever the state, an operation ends in one of the ways of `ExecEnding`; an ill-formed one fails. -/
theorem exec_ending (i : Instr) (s : State) : ExecEnding s i (exec i s) := by
  by_cases hwf : i.WellFormed
  · exact exec_ending_of_wellFormed hwf s
  · rw [exec_illformed hwf]
    exact .failed _ (.illformed i hwf)

/-! ## The statuses -/

/-- A response that is not OK is that of a failure, and its status has a cause. -/
theorem exec_status_cause {i : Instr} {s t : State} {r : Response} (h : exec i s = .next t)
    (hr : t.resp = some r) : r.status = .ok ∨ FailsWith s i r.status := by
  have hend := exec_ending i s
  rw [h] at hend
  cases hend with
  | completed _ r' hresp hok =>
    obtain rfl : r = r' := Option.some.inj (hr.symm.trans hresp)
    exact .inl hok
  | failed e hcause =>
    obtain rfl : _ = r := Option.some.inj hr
    exact .inr hcause

/-- Settles O9: each status has its causes, and each cause its operation. -/
theorem statusRaisedBy : Obligations.StatusRaisedBy := by
  intro i s t r h hr
  obtain hok | hcause := exec_status_cause h hr
  · simp [hok]
  · generalize r.status = e at hcause
    cases hcause with
    | illformed _ hkind => simpa using hkind
    | encodeOversize ty sq p hbig => simpa using hbig
    | decodeRejected F e hframe =>
      have he := decodeFrameBytes_error_mem hframe
      exact ⟨fun hcode => absurd (hcode ▸ he) (by decide), fun hcode => absurd (hcode ▸ he) (by decide),
        fun _ => .inr ⟨F, rfl⟩, fun _ => ⟨F, rfl⟩, fun hcode => absurd (hcode ▸ he) (by decide)⟩
    | vadBadChunk | cfgReadBadReg | cfgWriteBadReg | statReadBadReg => simp

/-! ## The events -/

theorem rxResponse_event_ne_vadStatus (f : Option Frame) : (rxResponse f).event ≠ .vadStatus := by
  cases f <;> exact nofun

theorem vadResponse_event_ne_frame (flip : Option (Bool × Half)) : (vadResponse flip).event ≠ .frame := by
  cases flip <;> exact nofun

/-- Settles O10: of the effects of the operations only RX_BYTE's and VAD_CHUNK's leave an event, each its
own. -/
theorem eventsEmittedBy : Obligations.EventsEmittedBy := by
  intro i s t r h hr
  cases exec_cases h with
  | rxByte b u f =>
    obtain rfl : _ = r := Option.some.inj hr
    exact ⟨fun _ => ⟨b, rfl⟩, fun hvad => absurd hvad (rxResponse_event_ne_vadStatus f)⟩
  | vadChunk xs =>
    obtain rfl : _ = r := Option.some.inj hr
    exact ⟨fun hframe => absurd hframe (vadResponse_event_ne_frame _), fun _ => ⟨xs, rfl⟩⟩
  | _ =>
    obtain rfl : _ = r := Option.some.inj hr
    exact ⟨nofun, nofun⟩

/-! ## Completion -/

/-- Where the cursors of the parser and of the ring are in range, no operation stops. -/
theorem exists_exec_next {s : State} (hparser : s.ParserInv) (hring : s.RingInv) (i : Instr) :
    ∃ t, exec i s = .next t := by
  have hend := exec_ending i s
  generalize exec i s = result at hend
  cases hend with
  | completed t => exact ⟨t, rfl⟩
  | failed e => exact ⟨s.failedWith e, rfl⟩
  | stopped f hbroken => exact absurd hring (hbroken hparser)

/-- A command is the operation it decodes to, or fails. -/
theorem exists_issue_next {s : State} (hparser : s.ParserInv) (hring : s.RingInv) (c : Command) :
    ∃ t, issue c s = .next t := by
  cases hd : decode c with
  | ok i => exact issue_of_decode_ok hd s ▸ exists_exec_next hparser hring i
  | error e => exact ⟨_, issue_of_decode_error hd s⟩

/-- A step is idle, or issues a command in a state with the same cursors. -/
theorem exists_step_next {s : State} (hparser : s.ParserInv) (hring : s.RingInv) :
    ∃ t, step s = .next t := by
  cases hp : s.pending with
  | nil => exact ⟨s, step_of_pending_nil hp⟩
  | cons c cs =>
    exact step_of_pending_cons hp ▸ exists_issue_next (s := { s with pending := cs }) hparser hring c

/-- Settles O15: of the invariants only those of the cursors are needed. -/
theorem everyOperationCompletes : Obligations.EveryOperationCompletes := by
  rintro s ⟨-, hparser, hring, -⟩
  exact ⟨exists_exec_next hparser hring, exists_issue_next hparser hring, exists_step_next hparser hring⟩

end Sys2Proof.Machine
end

section
/-! PROOFS. Power-on reset (70_reset_and_hazards R280, 42_rx_parser R159, 10_state R20 to R37): the values it
gives and the invariants it starts; and what no operation changes afterwards, the parameters of the build and
the queue (70_reset_and_hazards R283). -/

namespace Sys2Proof

/-- The values of R7 meet R7's own constraints. -/
theorem Config.default_legal : Config.default.Legal := by decide

end Sys2Proof

namespace Sys2Proof.Machine

/-! ## The parameters, the queue and the response -/

/-- No operation changes the queue: with the queue put back to what it was before, its outcome is the same. -/
theorem exec_pending {i : Instr} {s t : State} (h : exec i s = .next t) : t.pending = s.pending := by
  have hport : exec i s = mapNext (State.withQueue · s.pending) (exec i s) :=
    exec_withPort s s.pending s.resp i
  rw [h, mapNext_next] at hport
  injection hport with hsame
  rw [hsame, State.withQueue]

/-- Every operation that completes leaves a response, whether it succeeds or fails (30_encoding R88). -/
theorem exec_resp {i : Instr} {s t : State} (h : exec i s = .next t) : ∃ r, t.resp = some r := by
  have hend := exec_ending i s
  rw [h] at hend
  cases hend with
  | completed _ r hresp => exact ⟨r, hresp⟩
  | failed e => exact ⟨_, s.failedWith_resp e⟩

/-- Settles O7: the three parts of the state that are the model's own, one lemma each. -/
theorem parametersAndQueueKept : Obligations.ParametersAndQueueKept :=
  fun _ _ _ h => ⟨exec_cfg h, exec_pending h, exec_resp h⟩

/-! ## The values at power-on -/

/-- An array that nothing has written holds zeros only. -/
theorem Memory.take_nil {w : Nat} (n : Nat) : Memory.take ([] : Memory w) n = List.replicate n 0#w := by
  rw [Memory.take, List.eq_replicate_iff]
  simp

/-- Both output buffers start empty, so they hold silence (10_state R36). -/
theorem State.powerOn_obuf (c : Config) (b : Fin 2) :
    (State.powerOn c).obuf b = List.replicate c.outBufSamples 0#16 := by
  have hempty : (if b = 0 then (State.powerOn c).obuf0 else (State.powerOn c).obuf1) = [] := ite_self _
  rw [State.obuf, hempty]
  exact Memory.take_nil c.outBufSamples

/-- Settles O12: the elements that `powerOn` names are read off it; the output buffers and the counters are
zero throughout. -/
theorem powerOnValues : Obligations.PowerOnValues := by
  refine ⟨fun c => ⟨rfl, rfl, rfl, rfl, rfl, rfl, rfl, rfl, rfl, rfl, rfl, rfl, rfl, rfl, rfl, rfl,
    ?buffers, rfl, ?counters⟩, rfl, rfl, rfl, rfl⟩
  case buffers => exact State.powerOn_obuf c
  case counters => exact Stats.get_zero

/-! ## The invariants at power-on -/

theorem Memory.fits_nil {w : Nat} (n : Nat) : Memory.Fits n ([] : Memory w) := ⟨rfl, rfl⟩

theorem State.powerOn_memInv (c : Config) : (State.powerOn c).MemInv :=
  (State.powerOn c).memInv_iff.mpr
    ⟨Memory.fits_nil _, Memory.fits_nil _, Memory.fits_nil _, Memory.fits_nil _, Memory.fits_nil _⟩

/-- The cursors start at 0, which is inside a ring with elements. -/
theorem State.powerOn_ringInv {c : Config} (h : c.Legal) : (State.powerOn c).RingInv := by
  obtain ⟨⟨-, hcap, -⟩, -⟩ := h
  exact ⟨Nat.zero_lt_of_lt hcap, Nat.zero_lt_of_lt hcap⟩

theorem State.powerOn_inv {c : Config} (h : c.Legal) : (State.powerOn c).Inv :=
  ⟨h, State.powerOn_parserInv c, State.powerOn_ringInv h, State.powerOn_memInv c, .inl rfl⟩

/-- The parser starts in the hunt, where the running CRC is that of no part of a frame. -/
theorem State.powerOn_crcInv (c : Config) : (State.powerOn c).CrcInv := State.crcInv_of_waitSof (.inl rfl)

/-- Settles O13: the reset state is the power-on state of the default parameters, which are legal. -/
theorem invariantsAtPowerOn : Obligations.InvariantsAtPowerOn :=
  ⟨fun c hc => ⟨State.powerOn_inv hc, State.powerOn_crcInv c⟩,
    State.powerOn_inv Config.default_legal, State.powerOn_crcInv .default⟩

end Sys2Proof.Machine
end
